-- ==== Sys2Proof/Word.lean ====
section
/-! DEFINITION. The words the block moves, and the triples it indexes by component or by pixel of a group
(00_scope.md R11, R15, R17; 10_state.md R31, R49). -/

namespace Sys2Proof

/-- A 32-bit port or register value (30_encoding.md R130, 10_state.md R38 to R48). -/
abbrev Word := BitVec 32

/-- One byte of the PPS image (10_state.md R32). -/
abbrev Byte := BitVec 8

/-- A carrier for one sample of `B[c]` bits. `B[c]` is at most 16 whatever the 4-bit `bits_per_component` holds,
so no sample is ever narrowed; a legal configuration has `B[c] <= 13` (00_scope.md R16, 10_state.md R49). -/
abbrev Sample := BitVec 16

/-- An index 0, 1 or 2. -/
inductive Idx3 where
  | i0
  | i1
  | i2
  deriving DecidableEq, Repr

/-- A component index: 0 luma, 1 and 2 chroma (00_scope.md R15). Also a substream number (20_memory.md R109). -/
abbrev Cpnt := Idx3

/-- The index of a pixel in its group (00_scope.md R17). -/
abbrev Pix := Idx3

/-- The number an index stands for. -/
def Idx3.toNat : Idx3 → Nat
  | .i0 => 0
  | .i1 => 1
  | .i2 => 2

/-- The strict component order c = 0, 1, 2 (00_scope.md R15); the pixels of a group in pixel order. -/
def Idx3.all : List Idx3 := [.i0, .i1, .i2]

/-- Three like things, one per component or one per pixel of a group. -/
structure Tri (α : Type) where
  a0 : α
  a1 : α
  a2 : α
  deriving DecidableEq, Repr

/-- The element at an index. -/
def Tri.get {α : Type} (t : Tri α) : Idx3 → α
  | .i0 => t.a0
  | .i1 => t.a1
  | .i2 => t.a2

/-- The triple with the element at an index replaced. -/
def Tri.set {α : Type} (t : Tri α) (i : Idx3) (v : α) : Tri α :=
  match i with
  | .i0 => { t with a0 := v }
  | .i1 => { t with a1 := v }
  | .i2 => { t with a2 := v }

/-- The triple that holds one value three times. -/
def Tri.fill {α : Type} (v : α) : Tri α := ⟨v, v, v⟩

end Sys2Proof
end

