-- ==== Sys2Proof/Syntax.lean ====
section
/-! DEFINITION. The commands of the block: one constructor per row of the opcode map (30_encoding.md R134). The
operands `opA` and `opB` come from the ports, not from the command word (R131), so they are no part of a command. -/

namespace Sys2Proof

/-- A predictor class: `PRED`'s `sel` field and the block-prediction history (10_state.md R47, 40_prediction.md R196). -/
inductive PredClass where
  | left
  | map
  | bp
  deriving DecidableEq, Repr

/-- The number of a predictor class: 0 LEFT, 1 MAP, 2 BP. -/
def PredClass.toNat : PredClass → Nat
  | .left => 0
  | .map => 1
  | .bp => 2

/-- A command of the block, with the fields of its word that it uses (30_encoding.md R131, R134). An index is the
unsigned value of the 16-bit `idx` field. -/
inductive Instr where
  /-- op 0x00 -/
  | nop
  /-- op 0x01, register index -/
  | cfgWr (idx : Nat)
  /-- op 0x02 -/
  | cfgCheck
  /-- op 0x03, `sel` bit 0 -/
  | sliceStart (isEncoder : Bool)
  /-- op 0x04 -/
  | lineStart
  /-- op 0x05 -/
  | lineEnd
  /-- op 0x06, component and sample index -/
  | origWr (c : Cpnt) (i : Nat)
  /-- op 0x07, component and sample index -/
  | pixRd (c : Cpnt) (i : Nat)
  /-- op 0x08, register index -/
  | regRd (idx : Nat)
  /-- op 0x09 -/
  | mapq (c : Cpnt)
  /-- op 0x0A -/
  | quant
  /-- op 0x0B -/
  | dequant
  /-- op 0x0C -/
  | rsize
  /-- op 0x0D -/
  | recon (c : Cpnt)
  /-- op 0x0E, component, predictor and pixel position -/
  | pred (c : Cpnt) (sel : PredClass) (h : Nat)
  /-- op 0x0F, component and group start -/
  | midpoint (c : Cpnt) (gs : Nat)
  /-- op 0x10, component and entry number -/
  | ichLookup (c : Cpnt) (k : Nat)
  /-- op 0x11, group start -/
  | ichTest (gs : Nat)
  /-- op 0x12, pixel position -/
  | ichPick (h : Nat)
  /-- op 0x13, group start -/
  | flatDetect (gs : Nat)
  /-- op 0x14 -/
  | psizeAdj (c : Cpnt)
  /-- op 0x15 -/
  | encGroup
  /-- op 0x16 -/
  | decGroup
  /-- op 0x17 -/
  | rcUpdate
  deriving DecidableEq, Repr

end Sys2Proof
end

