-- ==== Sys2Proof/WellFormed.lean ====
section
/-! DEFINITION. Which commands have an encoding: the `idx` field is 16 bits wide (30_encoding.md R131). The other
fields are bounded by their types. -/

namespace Sys2Proof

/-- An index fits the 16-bit `idx` field. -/
def idxFits (n : Nat) : Bool := n < 2 ^ 16

/-- A command is well formed when the index it carries, if any, fits its field. -/
def Instr.wf : Instr → Bool
  | .nop => true
  | .cfgWr idx => idxFits idx
  | .cfgCheck => true
  | .sliceStart _ => true
  | .lineStart => true
  | .lineEnd => true
  | .origWr _ i => idxFits i
  | .pixRd _ i => idxFits i
  | .regRd idx => idxFits idx
  | .mapq _ => true
  | .quant => true
  | .dequant => true
  | .rsize => true
  | .recon _ => true
  | .pred _ _ h => idxFits h
  | .midpoint _ gs => idxFits gs
  | .ichLookup _ k => idxFits k
  | .ichTest gs => idxFits gs
  | .ichPick h => idxFits h
  | .flatDetect gs => idxFits gs
  | .psizeAdj _ => true
  | .encGroup => true
  | .decGroup => true
  | .rcUpdate => true

end Sys2Proof
end

