-- ==== Sys2Proof/Decode.lean ====
section
/-! DEFINITION. Decoding and encoding of the command word (30_encoding.md R131 to R135). -/

namespace Sys2Proof

/-- Why a word is no command: the field checks 1 to 5 of 30_encoding.md R132. Check 6, the direction, depends on the
state and is made by the command. -/
inductive Reject where
  /-- check 1: `op` in 0x18..0x1F -/
  | reservedOpcode
  /-- check 2: `rsv` is not 0 -/
  | reservedBits
  /-- check 3: a field the command does not use is not 0 -/
  | unusedField
  /-- check 4: `cpnt` is 3 -/
  | badComponent
  /-- check 5: a `sel` value the command does not define -/
  | badSelector
  deriving DecidableEq, Repr

/-- The fields of a command word, in the order of 30_encoding.md R131. -/
structure Fields where
  op : Nat
  cpnt : Nat
  sel : Nat
  rsv : Nat
  idx : Nat
  deriving DecidableEq, Repr

/-- `v[hi:lo]` of 00_scope.md R11. -/
def bitSlice (v hi lo : Nat) : Nat := v / 2 ^ lo % 2 ^ (hi - lo + 1)

/-- The fields of a word: op 31:27, cpnt 26:25, sel 24:22, rsv 21:16, idx 15:0. -/
def fieldsOf (w : Word) : Fields :=
  { op := bitSlice w.toNat 31 27
    cpnt := bitSlice w.toNat 26 25
    sel := bitSlice w.toNat 24 22
    rsv := bitSlice w.toNat 21 16
    idx := bitSlice w.toNat 15 0 }

/-- A component field; 3 names no component. -/
def cpntOf : Nat → Option Cpnt
  | 0 => some .i0
  | 1 => some .i1
  | 2 => some .i2
  | _ => none

/-- `PRED`'s selector; 3 to 7 name no predictor. -/
def predClassOf : Nat → Option PredClass
  | 0 => some .left
  | 1 => some .map
  | 2 => some .bp
  | _ => none

/-- `SLICE_START`'s selector: bit 0 is the direction and bits 2:1 are 0 (45_sequencing.md R415). -/
def directionOf : Nat → Option Bool
  | 0 => some false
  | 1 => some true
  | _ => none

/-- A command that uses no field. -/
def plainForm (f : Fields) (i : Instr) : Except Reject Instr :=
  if f.cpnt ≠ 0 ∨ f.sel ≠ 0 ∨ f.idx ≠ 0 then .error .unusedField else .ok i

/-- A command that uses `idx` alone. -/
def idxForm (f : Fields) (mk : Nat → Instr) : Except Reject Instr :=
  if f.cpnt ≠ 0 ∨ f.sel ≠ 0 then .error .unusedField else .ok (mk f.idx)

/-- A command that uses `cpnt` alone. -/
def cpntForm (f : Fields) (mk : Cpnt → Instr) : Except Reject Instr :=
  if f.sel ≠ 0 ∨ f.idx ≠ 0 then .error .unusedField
  else match cpntOf f.cpnt with
    | none => .error .badComponent
    | some c => .ok (mk c)

/-- A command that uses `cpnt` and `idx`. -/
def cpntIdxForm (f : Fields) (mk : Cpnt → Nat → Instr) : Except Reject Instr :=
  if f.sel ≠ 0 then .error .unusedField
  else match cpntOf f.cpnt with
    | none => .error .badComponent
    | some c => .ok (mk c f.idx)

/-- `SLICE_START`, which uses `sel` alone. -/
def sliceForm (f : Fields) : Except Reject Instr :=
  if f.cpnt ≠ 0 ∨ f.idx ≠ 0 then .error .unusedField
  else match directionOf f.sel with
    | none => .error .badSelector
    | some d => .ok (.sliceStart d)

/-- `PRED`, which uses every field. -/
def predForm (f : Fields) : Except Reject Instr :=
  match cpntOf f.cpnt with
  | none => .error .badComponent
  | some c =>
    match predClassOf f.sel with
    | none => .error .badSelector
    | some p => .ok (.pred c p f.idx)

/-- The opcode map of 30_encoding.md R134, for a word whose reserved bits are 0. -/
def decodeOp (f : Fields) : Except Reject Instr :=
  match f.op with
  | 0x00 => plainForm f .nop
  | 0x01 => idxForm f .cfgWr
  | 0x02 => plainForm f .cfgCheck
  | 0x03 => sliceForm f
  | 0x04 => plainForm f .lineStart
  | 0x05 => plainForm f .lineEnd
  | 0x06 => cpntIdxForm f .origWr
  | 0x07 => cpntIdxForm f .pixRd
  | 0x08 => idxForm f .regRd
  | 0x09 => cpntForm f .mapq
  | 0x0A => plainForm f .quant
  | 0x0B => plainForm f .dequant
  | 0x0C => plainForm f .rsize
  | 0x0D => cpntForm f .recon
  | 0x0E => predForm f
  | 0x0F => cpntIdxForm f .midpoint
  | 0x10 => cpntIdxForm f .ichLookup
  | 0x11 => idxForm f .ichTest
  | 0x12 => idxForm f .ichPick
  | 0x13 => idxForm f .flatDetect
  | 0x14 => cpntForm f .psizeAdj
  | 0x15 => plainForm f .encGroup
  | 0x16 => plainForm f .decGroup
  | 0x17 => plainForm f .rcUpdate
  | _ => .error .reservedOpcode

/-- The command a word encodes, or the first field check of 30_encoding.md R132 that it fails. -/
def decode (w : Word) : Except Reject Instr :=
  let f := fieldsOf w
  if 0x18 ≤ f.op then .error .reservedOpcode
  else if f.rsv ≠ 0 then .error .reservedBits
  else decodeOp f

/-- The word of the fields `op`, `cpnt`, `sel` and `idx`: `(op << 27) | (cpnt << 25) | (sel << 22) | idx`
(30_encoding.md R135). -/
def wordOf (op cpnt sel idx : Nat) : Word :=
  BitVec.ofNat 32 (op * 2 ^ 27 + cpnt * 2 ^ 25 + sel * 2 ^ 22 + idx)

/-- The word of a well-formed command (30_encoding.md R131, R134). -/
def encode : Instr → Word
  | .nop => wordOf 0x00 0 0 0
  | .cfgWr idx => wordOf 0x01 0 0 idx
  | .cfgCheck => wordOf 0x02 0 0 0
  | .sliceStart d => wordOf 0x03 0 d.toNat 0
  | .lineStart => wordOf 0x04 0 0 0
  | .lineEnd => wordOf 0x05 0 0 0
  | .origWr c i => wordOf 0x06 c.toNat 0 i
  | .pixRd c i => wordOf 0x07 c.toNat 0 i
  | .regRd idx => wordOf 0x08 0 0 idx
  | .mapq c => wordOf 0x09 c.toNat 0 0
  | .quant => wordOf 0x0A 0 0 0
  | .dequant => wordOf 0x0B 0 0 0
  | .rsize => wordOf 0x0C 0 0 0
  | .recon c => wordOf 0x0D c.toNat 0 0
  | .pred c p h => wordOf 0x0E c.toNat p.toNat h
  | .midpoint c gs => wordOf 0x0F c.toNat 0 gs
  | .ichLookup c k => wordOf 0x10 c.toNat 0 k
  | .ichTest gs => wordOf 0x11 0 0 gs
  | .ichPick h => wordOf 0x12 0 0 h
  | .flatDetect gs => wordOf 0x13 0 0 gs
  | .psizeAdj c => wordOf 0x14 c.toNat 0 0
  | .encGroup => wordOf 0x15 0 0 0
  | .decGroup => wordOf 0x16 0 0 0
  | .rcUpdate => wordOf 0x17 0 0 0

/-- The command word of `nbits` table bits `w`, every bit above them 0. A command is one 32-bit word on the command
port, so no byte order enters (30_encoding.md R130, R131). -/
def tableWord (nbits w : Nat) : Word := BitVec.ofNat 32 (w % 2 ^ nbits)

/-- What the decoder reads from a word numbered as spec/opcode_table.json numbers it. -/
def decodeTableWord (nbits w : Nat) : Option Instr :=
  match decode (tableWord nbits w) with
  | .ok i => some i
  | .error _ => none

end Sys2Proof
end

