-- ==== Sys2Proof/Config.lean ====
section
/-! DEFINITION. What the spec leaves open: the fault kinds it names (60_exceptions.md R441) and the free values of the
model. A free value is an opaque constant: nothing in Lean can evaluate it, so a statement holds whatever it is.
The named parameters of 00_scope.md R9 stand, each at the spec's default, in Machine/Params.lean. -/

namespace Sys2Proof

/-- The fault codes 0x01 to 0x0F of 60_exceptions.md R441. Code 0x00, no fault, is the absence of a kind. -/
inductive FaultKind where
  | illegalCmd
  | cfgRange
  | cfgOrder
  | cfgUnsupported
  | cfgLocked
  | notActive
  | badIndex
  | range
  | uninit
  | sequence
  | bitio
  | bitstream
  | bufOverflow
  | bufUnderflow
  | rcModelOverflow
  deriving DecidableEq, Repr, Inhabited

/-- The fault kinds that a value can raise by not fitting its register: an operand out of range, or a model-consistency
violation of a running slice (60_exceptions.md R441, R447). A kind of another cause is none of them: no configuration
fault is raised at run time (R447). -/
inductive UnfitKind where
  | range
  | bufOverflow
  | bufUnderflow
  | rcModelOverflow
  deriving DecidableEq, Repr, Inhabited

/-- FREE VALUE (DESIGN CHOICE, log entry 3). 00_scope.md R10 makes a value that does not fit its register "a fault of
the kind named at the writing rule"; some writing rules name no kind. The kind, for the index of the register: the same
kind whenever that register overflows (70_reset_and_hazards.md R497). -/
opaque Config.unfitKind : Nat → UnfitKind

/-- FREE VALUE (DESIGN CHOICE, log entry 4). A `CFG_CHECK` ordering check compares one field with its neighbour, and
45_sequencing.md R413 does not say which of the two is "the failing field". True picks the later one; the argument is
the first stream bit of the earlier one. -/
opaque Config.laterOfPair : Nat → Bool

end Sys2Proof
end

