-- ==== Sys2Proof/Machine/State.lean ====
section
/-! DEFINITION. The state of the block: every piece of state of 10_state.md R30 to R49 and 20_memory.md R100, the
command port, the environment's bit streams, and the reasons a step of the model can stop. -/

namespace Sys2Proof.Machine

/-- Why a step of the model stops with a fault. NO CONSTRUCTOR: every fault the spec names is a state the block enters
(60_exceptions.md R443), which is a next state; no step of this model stops. Safe: there is nothing to raise. -/
inductive Fault where
  deriving DecidableEq, Repr

/-- Why a step of the model refuses. -/
inductive Refusal where
  /-- Raised by an arm of `exec` whose command has no meaning yet, and by nothing else; no arm is left so.
  Safe: the model stops where the block goes on. -/
  | notModelled (mnemonic : String)
  deriving DecidableEq, Repr

/-- What the argument of `raise F(info)` holds (60_exceptions.md R442, R443). -/
structure Raise where
  kind : FaultKind
  info : Word
  deriving DecidableEq, Repr

/-- A command as the sequencer presents it: the word and both operands together (30_encoding.md R130). -/
structure Command where
  word : Word
  opA : Word
  opB : Word
  deriving DecidableEq, Repr

/-- The command interface: the word and operands of the command being executed, and the result port
(10_state.md R31, 30_encoding.md R130). Each is 32 bits; `opA`, `opB` and `res` are signed. -/
structure Port where
  cmd : Word
  opA : Word
  opB : Word
  res : Word
  deriving DecidableEq, Repr

/-- The status registers (10_state.md R38, R39): the fields of `STATUS`, `FAULT_INFO` and `FAULT_CMD`. -/
structure Status where
  faulted : Bool
  cfgValid : Bool
  sliceActive : Bool
  isEncoder : Bool
  sliceDone : Bool
  stateValid : Bool
  faultCode : Option FaultKind
  faultInfo : Word
  faultCmd : Word
  deriving DecidableEq, Repr

/-- Position and count registers (10_state.md R40). -/
structure PosRegs where
  vPos : BitVec 16
  hPos : BitVec 16
  groupInLine : BitVec 16
  groupCount : Word
  pixelCount : Word
  codedBitsTotal : Word
  deriving DecidableEq, Repr

/-- QP registers (10_state.md R41). -/
structure QpRegs where
  masterQp : BitVec 5
  prevQp : BitVec 5
  deriving DecidableEq, Repr

/-- Virtual-buffer and chunk registers (10_state.md R42); `bufferFullness` and `numBitsChunk` are signed. -/
structure BufRegs where
  bufferFullness : Word
  bpgFracAccum : BitVec 4
  removalStarted : Bool
  chunkPixelCount : Word
  numBitsChunk : Word
  clampedBits : Word
  chunkIndex : Word
  deriving DecidableEq, Repr

/-- Model-transform and range registers (10_state.md R43); `rcXformOffsetFx`, `rcModelFullness` and
`rcTgtBitsGroup` are signed. -/
structure RcRegs where
  rcXformScale : BitVec 6
  rcXformOffsetFx : Word
  scaleDecCount : BitVec 16
  scaleIncCount : BitVec 16
  scaleIncrementStart : Bool
  rcModelFullness : Word
  rcRange : BitVec 4
  rcTgtBitsGroup : Word
  deriving DecidableEq, Repr

/-- Group-size registers (10_state.md R44). -/
structure SizeRegs where
  codedGroupSize : BitVec 16
  rcSizeGroup : BitVec 16
  rcSizeGroupPrev : BitVec 16
  predictedSize : Tri (BitVec 5)
  prevPredQp : BitVec 5
  sizeUsed : Tri (BitVec 5)
  mppUsed : Tri Bool
  deriving DecidableEq, Repr

/-- ICH and mode flags (10_state.md R45). -/
structure ModeRegs where
  ichSelected : Bool
  prevIchSelected : Bool
  forceMpp : Bool
  ichIdx : Tri (BitVec 5)
  groupPending : Bool
  lineOpen : Bool
  deriving DecidableEq, Repr

/-- A flatness record: 4 bits, valid, type (1 very flat) and pos (10_state.md R46). -/
structure FlatRec where
  valid : Bool
  very : Bool
  pos : BitVec 2
  deriving DecidableEq, Repr

/-- The flatness that applies to a group: 0 none, 1 somewhat, 2 very (10_state.md R46). -/
inductive Flatness where
  | none
  | somewhat
  | very
  deriving DecidableEq, Repr

/-- Flatness registers (10_state.md R46). -/
structure FlatRegs where
  flatNext : FlatRec
  flatCur : FlatRec
  sgPos : BitVec 2
  flatThisGroup : Flatness
  deriving DecidableEq, Repr

/-- The block-prediction costs of one group of the window: one per candidate vector in `BP_CANDIDATES` order, and
the MAP cost (10_state.md R47). -/
structure BpCost where
  bp : List (BitVec 16)
  map : BitVec 16
  deriving DecidableEq, Repr

/-- Block-prediction history registers (10_state.md R47). An array element no command has written reads as its value
at power-on, 0 (LEFT for a predictor class); `ngSlice` is NG of the slice they belong to, which stays as they do until the
next `SLICE_START` (20_memory.md R101, log entry 9). `window` is the sliding window, `a0` the newest group. -/
structure BpRegs where
  ptypeCur : List PredClass
  bpVecCur : List (BitVec 5)
  ptypeNext : List PredClass
  bpVecNext : List (BitVec 5)
  window : Tri BpCost
  bpRun : BitVec 8
  edgeHold : BitVec 8
  bpGroupsSeen : BitVec 2
  ngSlice : BitVec 12
  deriving DecidableEq, Repr

/-- Per-unit scratch registers, component first, then pixel; signed (10_state.md R48). -/
structure Scratch where
  qres : Tri (Tri Word)
  pred : Tri (Tri Word)
  deriving DecidableEq, Repr

/-- One ICH entry (10_state.md R49, 42_ich.md R260). -/
structure IchEntry where
  valid : Bool
  v : Tri Sample
  deriving DecidableEq, Repr

/-- A memory of elements by address: addresses strictly rising. -/
abbrev Store (α : Type) := List (Nat × α)

/-- The PPS byte image `cfgbyte[0..127]` (10_state.md R32), as (index, byte) pairs in rising order. An unlisted
index reads as 0, the power-on value of 70_reset_and_hazards.md R480, and no listed byte is 0. -/
abbrev Memory := List Host.Cell

/-- A line buffer: one store of samples per component (10_state.md R49). An unlisted element is unspecified and
holds no value. -/
abbrev LineBuf := Tri (Store Sample)

/-- The environment's end of the block (20_memory.md R100 (4) and (5), R109): the bits sent to each substream of the
bit sink, how many more bits each accepts (`none`: no limit), the bits each substream of the bit source still holds,
and the chunk-size output. -/
structure BitIo where
  sink : Tri (List Bool)
  sinkRoom : Tri (Option Nat)
  source : Tri (List Bool)
  chunkOut : List (BitVec 16)
  deriving DecidableEq, Repr

/-- The whole state. -/
structure State where
  /-- the commands the sequencer will present, in order (20_memory.md R110) -/
  pending : List Command
  /-- the command interface -/
  port : Port
  /-- the PPS byte image -/
  mem : Memory
  /-- `FLATNESS_DET_THRESH` (10_state.md R34) -/
  flatThresh : BitVec 16
  /-- the status registers -/
  st : Status
  /-- position and counts -/
  pos : PosRegs
  /-- QPs -/
  qp : QpRegs
  /-- virtual buffer and chunks -/
  buf : BufRegs
  /-- rate-control model -/
  rc : RcRegs
  /-- group sizes -/
  size : SizeRegs
  /-- ICH and mode flags -/
  mode : ModeRegs
  /-- flatness -/
  flat : FlatRegs
  /-- block-prediction history -/
  bp : BpRegs
  /-- per-unit scratch -/
  scratch : Scratch
  /-- the reduced previous line -/
  prev : LineBuf
  /-- the current line -/
  cur : LineBuf
  /-- the original line -/
  orig : LineBuf
  /-- the ICH store, most recently used first -/
  ich : List IchEntry
  /-- the bit sink, the bit source and the chunk-size output -/
  io : BitIo
  /-- NG as the last `CFG_CHECK` that passed computed it (10_state.md R36); at most 2731, since `CFG_CHECK` holds the
  slice width to `LINE_MAX` -/
  ngChecked : BitVec 12
  deriving DecidableEq, Repr

/-- A flatness record that signals nothing: the value 0. -/
def FlatRec.zero : FlatRec := ⟨false, false, 0⟩

/-- An ICH entry as power-on leaves it in this model. -/
def IchEntry.empty : IchEntry := ⟨false, Tri.fill 0⟩

/-- A window slot with every cost 0. -/
def BpCost.zero : BpCost := ⟨List.replicate 8 0, 0⟩

/-- A line buffer with every element unspecified. -/
def LineBuf.empty : LineBuf := Tri.fill []

/-- The machine right after power-on reset (70_reset_and_hazards.md R480): status, fault and configuration registers
and `res` are 0, every line-buffer element is unspecified, and the block waits for its first command. The spec
leaves the codec registers unspecified: the model holds 0 in each (DESIGN CHOICE, log entry 1). The environment's
streams start empty, with no limit on the sink (DESIGN CHOICE, log entry 2). -/
def State.reset : State :=
  { pending := []
    port := ⟨0, 0, 0, 0⟩
    mem := []
    flatThresh := 0
    st := ⟨false, false, false, false, false, false, none, 0, 0⟩
    pos := ⟨0, 0, 0, 0, 0, 0⟩
    qp := ⟨0, 0⟩
    buf := ⟨0, 0, false, 0, 0, 0, 0⟩
    rc := ⟨0, 0, 0, 0, false, 0, 0, 0⟩
    size := ⟨0, 0, 0, Tri.fill 0, 0, Tri.fill 0, Tri.fill false⟩
    mode := ⟨false, false, false, Tri.fill 0, false, false⟩
    flat := ⟨FlatRec.zero, FlatRec.zero, 0, Flatness.none⟩
    bp := ⟨[], [], [], [], Tri.fill BpCost.zero, 0, 0, 0, 0⟩
    scratch := ⟨Tri.fill (Tri.fill 0), Tri.fill (Tri.fill 0)⟩
    prev := LineBuf.empty
    cur := LineBuf.empty
    orig := LineBuf.empty
    ich := List.replicate 32 IchEntry.empty
    io := ⟨Tri.fill [], Tri.fill none, Tri.fill [], []⟩
    ngChecked := 0 }

/-- Each `with` below replaces one part of the state. -/
def State.withPort (s : State) (v : Port) : State := { s with port := v }
def State.withMem (s : State) (v : Memory) : State := { s with mem := v }
def State.withFlatThresh (s : State) (v : BitVec 16) : State := { s with flatThresh := v }
def State.withSt (s : State) (v : Status) : State := { s with st := v }
def State.withPos (s : State) (v : PosRegs) : State := { s with pos := v }
def State.withQp (s : State) (v : QpRegs) : State := { s with qp := v }
def State.withBuf (s : State) (v : BufRegs) : State := { s with buf := v }
def State.withRc (s : State) (v : RcRegs) : State := { s with rc := v }
def State.withSize (s : State) (v : SizeRegs) : State := { s with size := v }
def State.withMode (s : State) (v : ModeRegs) : State := { s with mode := v }
def State.withFlat (s : State) (v : FlatRegs) : State := { s with flat := v }
def State.withBp (s : State) (v : BpRegs) : State := { s with bp := v }
def State.withScratch (s : State) (v : Scratch) : State := { s with scratch := v }
def State.withPrev (s : State) (v : LineBuf) : State := { s with prev := v }
def State.withCur (s : State) (v : LineBuf) : State := { s with cur := v }
def State.withOrig (s : State) (v : LineBuf) : State := { s with orig := v }
def State.withIch (s : State) (v : List IchEntry) : State := { s with ich := v }
def State.withIo (s : State) (v : BitIo) : State := { s with io := v }
def State.withNgChecked (s : State) (v : BitVec 12) : State := { s with ngChecked := v }

end Sys2Proof.Machine
end

