-- ==== Sys2Proof/Machine/Flags.lean ====
section
/-! DEFINITION. The flags of the block. It has no arithmetic flags: its flags are the fields of `STATUS`
(10_state.md R38) and the `ERR` level (60_exceptions.md R448). -/

namespace Sys2Proof.Machine

/-- The code of a fault kind (60_exceptions.md R441). -/
def faultCodeOf : FaultKind → Nat
  | .illegalCmd => 0x01
  | .cfgRange => 0x02
  | .cfgOrder => 0x03
  | .cfgUnsupported => 0x04
  | .cfgLocked => 0x05
  | .notActive => 0x06
  | .badIndex => 0x07
  | .range => 0x08
  | .uninit => 0x09
  | .sequence => 0x0A
  | .bitio => 0x0B
  | .bitstream => 0x0C
  | .bufOverflow => 0x0D
  | .bufUnderflow => 0x0E
  | .rcModelOverflow => 0x0F

/-- The `faultCode` field: 0 when no fault is recorded (10_state.md R38). -/
def Status.code (t : Status) : Nat :=
  match t.faultCode with
  | none => 0
  | some k => faultCodeOf k

/-- `STATUS`: bits 0 to 5 and 15:8; the reserved bits read 0 (10_state.md R38). -/
def Status.word (t : Status) : Word :=
  BitVec.ofNat 32
    (t.faulted.toNat + t.cfgValid.toNat * 2 + t.sliceActive.toNat * 4 + t.isEncoder.toNat * 8 + t.sliceDone.toNat * 16 +
      t.stateValid.toNat * 32 + t.code * 256)

/-- `ERR = st.faulted` (60_exceptions.md R448). -/
def State.err (s : State) : Bool := s.st.faulted

end Sys2Proof.Machine
end

