-- ==== Sys2Proof/Machine/Bits.lean ====
section
/-! DEFINITION. The integer primitives of 00_scope.md R11 and R12 and the bit-string primitives of 20_memory.md R104
and 30_encoding.md R150. Arithmetic is on integers (R10). -/

namespace Sys2Proof.Machine

/-- `v >> n`: floor division by a power of two (R12). -/
def shr (v : Int) (n : Nat) : Int := v / 2 ^ n

/-- `CLAMP(x, lo, hi) = min(max(x, lo), hi)` (R12). -/
def clampInt (x lo hi : Int) : Int := min (max x lo) hi

/-- `abs(x)` as a natural number (R12). -/
def absNat (x : Int) : Nat := x.natAbs

/-- `ceil_log2(n)` for n >= 1: the least k with `2^k >= n` (R12). -/
def ceilLog2 (n : Nat) : Nat := if n ≤ 1 then 0 else Nat.log2 (n - 1) + 1

/-- `sext_n(v)` of the n-bit value v (R11); a 0-bit value is 0. -/
def sext (n v : Nat) : Int := if n = 0 then 0 else if v < 2 ^ (n - 1) then v else (v : Int) - 2 ^ n

/-- The n low bits of v, most significant first (20_memory.md R104). -/
def toBits : Nat → Nat → List Bool
  | 0, _ => []
  | n + 1, v => toBits n (v / 2) ++ [v % 2 == 1]

/-- The unsigned value of a bit string, most significant bit first (20_memory.md R104). -/
def ofBits (bs : List Bool) : Nat := bs.foldl (fun a b => 2 * a + b.toNat) 0

/-- `Unary(v, vmax)` (30_encoding.md R150). -/
def unaryBits (v vmax : Nat) : List Bool := List.replicate v false ++ (if v < vmax then [true] else [])

/-- The length of `Unary(v, vmax)` (30_encoding.md R150). -/
def unaryLen (v vmax : Nat) : Nat := if v < vmax then v + 1 else vmax

/-- `ceil(n / 3)`, the groups of a line of n pixels (00_scope.md R17). -/
def groupsOf (n : Nat) : Nat := (n + 2) / 3

end Sys2Proof.Machine
end

