-- ==== Sys2Proof/Machine/Operands.lean ====
section
/-! DEFINITION. Every operand form of a command (30_encoding.md R130, R131, R134; 10_state.md R31): the two signed
ports, the packed halves of `opB`, and the signed and unsigned values of registers. The `idx` and `cpnt` forms are
read by the decoder. -/

namespace Sys2Proof.Machine

/-- `opA` as a signed integer. -/
def State.opA (s : State) : Int := s.port.opA.toInt

/-- `opB` as a signed integer. -/
def State.opB (s : State) : Int := s.port.opB.toInt

/-- `sext_16(opB[15:0])`, R0 of `PRED` (40_prediction.md R196). -/
def State.opBLow (s : State) : Int := sext 16 (s.port.opB.toNat % 2 ^ 16)

/-- `sext_16(opB[31:16])`, R1 of `PRED` (40_prediction.md R196). -/
def State.opBHigh (s : State) : Int := sext 16 (s.port.opB.toNat / 2 ^ 16)

/-- `vPos` (10_state.md R40). -/
def State.vPos (s : State) : Nat := s.pos.vPos.toNat

/-- `hPos` (10_state.md R40). -/
def State.hPos (s : State) : Nat := s.pos.hPos.toNat

/-- `masterQp` (10_state.md R41). -/
def State.masterQp (s : State) : Nat := s.qp.masterQp.toNat

/-- `bufferFullness` (10_state.md R42). -/
def State.fullness (s : State) : Int := s.buf.bufferFullness.toInt

/-- The group start of a pixel position: `h - (h % 3)` (00_scope.md R17). -/
def groupStart (h : Nat) : Nat := h - h % 3

end Sys2Proof.Machine
end

