-- ==== Sys2Proof/Machine/Memory.lean ====
section
/-! DEFINITION. The operations on memories: stores of elements by address in rising order, the PPS byte image over
them (10_state.md R32, 20_memory.md R100, R108), and lists of registers by number. -/

namespace Sys2Proof.Machine

/-- The element at an address, if the store lists one. -/
def storeRead {α : Type} : Store α → Nat → Option α
  | [], _ => none
  | (k, v) :: rest, a => if k = a then some v else storeRead rest a

/-- The store with an element written, in rising order. -/
def storeWrite {α : Type} : Store α → Nat → α → Store α
  | [], a, v => [(a, v)]
  | (k, x) :: rest, a, v =>
    if a < k then (a, v) :: (k, x) :: rest
    else if a = k then (a, v) :: rest
    else (k, x) :: storeWrite rest a v

/-- The store with an address no longer listed. -/
def storeErase {α : Type} : Store α → Nat → Store α
  | [], _ => []
  | (k, x) :: rest, a => if k = a then rest else (k, x) :: storeErase rest a

/-- The canonical form of a store: addresses strictly rising. -/
abbrev storeWf {α : Type} (m : Store α) : Prop := (m.map Prod.fst).Pairwise (· < ·)

/-- What an unlisted byte of the PPS image reads as: 0, its power-on value (70_reset_and_hazards.md R480). -/
def memDefault : Byte := 0

/-- `cfgbyte[i]`. -/
def memRead (m : Memory) (i : Nat) : Byte := (storeRead m i).getD memDefault

/-- `cfgbyte[i] <- v`, keeping the canonical form. -/
def memWrite (m : Memory) (i : Nat) (v : Byte) : Memory :=
  if v = memDefault then storeErase m i else storeWrite m i v

/-- The canonical form of the PPS image: addresses strictly rising and no byte equal to the unlisted one. -/
abbrev Memory.wf (m : Memory) : Prop := storeWf m ∧ ∀ p ∈ m, p.2 ≠ memDefault

/-- The registers 0 .. n-1 of an array all set to v, the others as before. -/
def fillPrefix {α : Type} (n : Nat) (v : α) (l : List α) : List α := List.replicate n v ++ l.drop n

/-- Register g of an array set to v; an array shorter than that is first filled up with d. -/
def listSet {α : Type} (d : α) (l : List α) (g : Nat) (v : α) : List α :=
  if g < l.length then l.set g v else l ++ List.replicate (g - l.length) d ++ [v]

/-- The registers 0 .. n-1 of one array copied over those of another. -/
def copyPrefix {α : Type} (d : α) (n : Nat) (src dst : List α) : List α :=
  (List.range n).map (fun g => src.getD g d) ++ dst.drop n

end Sys2Proof.Machine
end

