-- ==== Sys2Proof/Machine/Params.lean ====
section
/-! DEFINITION. The constants of 00_scope.md R8 and the named parameters of R9, each fixed at the spec's default
(log entry 6). -/

namespace Sys2Proof.Machine

/-- `ICH_ABOVE`: the entry numbers that name pixels of the line above (R9, 92_eei_decisions.md D25). -/
def ichAbove : Nat := 7

/-- The ICH capacity (R8). -/
def ichSize : Nat := 32

/-- `ICH_INDEX_BITS` (R9). -/
def ichIndexBits : Nat := 5

/-- `ICH_INDEX_SUBSTREAM` (R9, D24). -/
def ichIndexSubstream : Cpnt := .i0

/-- `ICH_LOGERR_WEIGHT` (R9, D27). -/
def ichLogerrWeight : Nat := 1

/-- The two settings of `ICH_UPDATE_POLICY` (R9, D26). -/
inductive IchPolicy where
  | everyGroup
  | ichGroupsOnly
  deriving DecidableEq, Repr

/-- `ICH_UPDATE_POLICY` (R9, D26). -/
def ichUpdatePolicy : IchPolicy := .everyGroup

/-- `BP_CANDIDATES`, each stored as `-v`, in the order -3, ..., -10 (R9, D15). -/
def bpCandidates : List Nat := [3, 4, 5, 6, 7, 8, 9, 10]

/-- `BP_WINDOW` in groups: 9 pixels (R9, 40_prediction.md R200). -/
def bpWindowGroups : Nat := 3

/-- `BP_MIN_RUN` (R9, D15). -/
def bpMinRun : Nat := 3

/-- `BP_EDGE_THRESH(b)` (R9, D15). -/
def bpEdgeThresh (b : Nat) : Nat := 2 ^ (b - 3)

/-- `BP_EDGE_HOLD` (R9, D15). -/
def bpEdgeHold : Nat := 3

/-- The default that `CFG_CHECK` gives `FLATNESS_DET_THRESH` (R9, 10_state.md R34). -/
def flatnessDetDefault (bpc : Nat) : Nat := 2 * 2 ^ (bpc - 8)

/-- `FLAT_SOMEWHAT_STEP` (R9, D23). -/
def flatSomewhatStep : Nat := 4

/-- `FLAT_VERY_QP` (R9, D23). -/
def flatVeryQp (bpc : Nat) : Nat := 1 + 2 * (bpc - 8)

/-- `RC_FULL_MIN` (R9, D33). -/
def rcFullMin : Int := 64

/-- `OFFSET_FRAC_BITS` (R9, D30). -/
def offsetFracBits : Nat := 11

/-- `RC_SCALE_FRAC_BITS` (R9, D30). -/
def rcScaleFracBits : Nat := 3

/-- `LINE_MAX` (R9, D44). -/
def lineMax : Nat := 8192

/-- `QLUT_LUMA_b` (41_quantizer.md R231); a depth that is not 8, 10 or 12 has no table. -/
def qlutLuma : Nat → List Nat
  | 8 => [0, 0, 1, 1, 2, 2, 3, 3, 4, 4, 5, 5, 6, 6, 7, 7]
  | 10 => [0, 0, 1, 1, 2, 2, 3, 3, 4, 4, 5, 5, 6, 6, 7, 7, 8, 8, 9, 9]
  | 12 => [0, 0, 1, 1, 2, 2, 3, 3, 4, 4, 5, 5, 6, 6, 7, 7, 8, 8, 9, 9, 10, 10, 11, 11]
  | _ => []

/-- `QLUT_CHROMA_b` (41_quantizer.md R231). -/
def qlutChroma : Nat → List Nat
  | 8 => [0, 1, 2, 2, 3, 3, 4, 4, 5, 5, 6, 6, 7, 7, 8, 8]
  | 10 => [0, 1, 2, 2, 3, 3, 4, 4, 5, 5, 6, 6, 7, 7, 8, 8, 9, 9, 10, 10]
  | 12 => [0, 1, 2, 2, 3, 3, 4, 4, 5, 5, 6, 6, 7, 7, 8, 8, 9, 9, 10, 10, 11, 11, 12, 12]
  | _ => []

/-- `MAX_QP(b)`: 15, 19, 23 for b = 8, 10, 12 (10_state.md R37); 0 for a depth that is not legal. -/
def maxQp : Nat → Nat
  | 8 => 15
  | 10 => 19
  | 12 => 23
  | _ => 0

end Sys2Proof.Machine
end

