-- ==== Sys2Proof/Machine/Pps.lean ====
section
/-! DEFINITION. The PPS byte image: its fields and reserved bits (30_encoding.md R140, R141), and the derived
configuration values (10_state.md R36, 00_scope.md R16, R17). -/

namespace Sys2Proof.Machine

/-- A named field of the PPS image (10_state.md R33). -/
inductive PpsField where
  | versionMajor
  | versionMinor
  | identifier
  | bitsPerComponent
  | linebufDepth
  | blockPredEnable
  | convertRgb
  | enable422
  | vbrEnable
  | bitsPerPixel
  | picHeight
  | picWidth
  | sliceHeight
  | sliceWidth
  | chunkSize
  | initialXmitDelay
  | initialDecDelay
  | initialScaleValue
  | scaleIncrementInterval
  | scaleDecrementInterval
  | firstLineBpgOfs
  | nflBpgOffset
  | sliceBpgOffset
  | initialOffset
  | finalOffset
  | flatnessMinQp
  | flatnessMaxQp
  | rcModelSize
  | rcEdgeFactor
  | rcQuantIncrLimit0
  | rcQuantIncrLimit1
  | rcTgtOffsetHi
  | rcTgtOffsetLo
  | rcBufThresh (i : Nat)
  | rangeMinQp (j : Nat)
  | rangeMaxQp (j : Nat)
  | rangeBpgOffset (j : Nat)
  deriving DecidableEq, Repr

/-- The first stream bit of a field (30_encoding.md R140). -/
def PpsField.first : PpsField → Nat
  | .versionMajor => 0
  | .versionMinor => 4
  | .identifier => 8
  | .bitsPerComponent => 24
  | .linebufDepth => 28
  | .blockPredEnable => 34
  | .convertRgb => 35
  | .enable422 => 36
  | .vbrEnable => 37
  | .bitsPerPixel => 38
  | .picHeight => 48
  | .picWidth => 64
  | .sliceHeight => 80
  | .sliceWidth => 96
  | .chunkSize => 112
  | .initialXmitDelay => 134
  | .initialDecDelay => 144
  | .initialScaleValue => 170
  | .scaleIncrementInterval => 176
  | .scaleDecrementInterval => 196
  | .firstLineBpgOfs => 219
  | .nflBpgOffset => 224
  | .sliceBpgOffset => 240
  | .initialOffset => 256
  | .finalOffset => 272
  | .flatnessMinQp => 291
  | .flatnessMaxQp => 299
  | .rcModelSize => 304
  | .rcEdgeFactor => 324
  | .rcQuantIncrLimit0 => 331
  | .rcQuantIncrLimit1 => 339
  | .rcTgtOffsetHi => 344
  | .rcTgtOffsetLo => 348
  | .rcBufThresh i => 352 + 8 * i
  | .rangeMinQp j => 464 + 16 * j
  | .rangeMaxQp j => 469 + 16 * j
  | .rangeBpgOffset j => 474 + 16 * j

/-- The width of a field in bits (30_encoding.md R140). -/
def PpsField.width : PpsField → Nat
  | .versionMajor => 4
  | .versionMinor => 4
  | .identifier => 8
  | .bitsPerComponent => 4
  | .linebufDepth => 4
  | .blockPredEnable => 1
  | .convertRgb => 1
  | .enable422 => 1
  | .vbrEnable => 1
  | .bitsPerPixel => 10
  | .picHeight => 16
  | .picWidth => 16
  | .sliceHeight => 16
  | .sliceWidth => 16
  | .chunkSize => 16
  | .initialXmitDelay => 10
  | .initialDecDelay => 16
  | .initialScaleValue => 6
  | .scaleIncrementInterval => 16
  | .scaleDecrementInterval => 12
  | .firstLineBpgOfs => 5
  | .nflBpgOffset => 16
  | .sliceBpgOffset => 16
  | .initialOffset => 16
  | .finalOffset => 16
  | .flatnessMinQp => 5
  | .flatnessMaxQp => 5
  | .rcModelSize => 16
  | .rcEdgeFactor => 4
  | .rcQuantIncrLimit0 => 5
  | .rcQuantIncrLimit1 => 5
  | .rcTgtOffsetHi => 4
  | .rcTgtOffsetLo => 4
  | .rcBufThresh _ => 8
  | .rangeMinQp _ => 5
  | .rangeMaxQp _ => 5
  | .rangeBpgOffset _ => 6

/-- The reserved rows of 30_encoding.md R140: first stream bit and width. -/
def ppsReserved : List (Nat × Nat) :=
  [(16, 8), (32, 2), (128, 6), (160, 10), (192, 4), (208, 11), (288, 3), (296, 3), (320, 4), (328, 3), (336, 3),
    (704, 320)]

/-- Stream bit k is reserved. -/
def ppsBitReserved (k : Nat) : Bool := ppsReserved.any (fun r => r.1 ≤ k && k < r.1 + r.2)

/-- A byte with the reserved bits of byte i forced to 0: `v & ~reservedMask(i)` (45_sequencing.md R411). Bit b of
byte i is stream bit 8i + 7 - b (30_encoding.md R140). -/
def clearReserved (i : Nat) (v : Byte) : Byte :=
  BitVec.ofNat 8 (ofBits ((List.range 8).map (fun j => v.getLsbD (7 - j) && !ppsBitReserved (8 * i + j))))

/-- Stream bit k of the image: bit 7 - k mod 8 of byte k / 8 (30_encoding.md R140). -/
def ppsBit (m : Memory) (k : Nat) : Bool := (memRead m (k / 8)).getLsbD (7 - k % 8)

/-- The unsigned value of `width` stream bits from `first` on, the most significant bit first (30_encoding.md R140). -/
def ppsBits (m : Memory) (first : Nat) : Nat → Nat
  | 0 => 0
  | w + 1 => 2 * ppsBits m first w + (ppsBit m (first + w)).toNat

/-- `cfg.f` of an image, zero-extended (10_state.md R32). -/
def cfgOf (m : Memory) (f : PpsField) : Nat := ppsBits m f.first f.width

/-- `cfg.f` (00_scope.md R13). -/
def State.cfg (s : State) (f : PpsField) : Nat := cfgOf s.mem f

/-- A one-bit field as a truth value. -/
def State.cfgFlag (s : State) (f : PpsField) : Bool := s.cfg f == 1

/-- `bits_per_component`. -/
def State.bpc (s : State) : Nat := s.cfg .bitsPerComponent

/-- Component c is a chroma component of YCoCg (00_scope.md R15, R16). -/
def State.isChroma (s : State) (c : Cpnt) : Bool := s.cfgFlag .convertRgb && c != .i0

/-- `B[c]` (00_scope.md R16). -/
def State.depth (s : State) (c : Cpnt) : Nat := s.bpc + (s.isChroma c).toNat

/-- `maxval[c] = 2^B[c] - 1` (00_scope.md R16). -/
def State.maxval (s : State) (c : Cpnt) : Nat := 2 ^ s.depth c - 1

/-- `lbd[c]` (10_state.md R36). -/
def State.lbd (s : State) (c : Cpnt) : Nat := s.cfg .linebufDepth + (s.isChroma c).toNat

/-- `W` (00_scope.md R17). -/
def State.width (s : State) : Nat := s.cfg .sliceWidth

/-- `H` (00_scope.md R17). -/
def State.height (s : State) : Nat := s.cfg .sliceHeight

/-- `NG = ceil(W / 3)` (10_state.md R36). -/
def State.ng (s : State) : Nat := groupsOf s.width

/-- `multiSlice` (10_state.md R36). -/
def State.multiSlice (s : State) : Bool := s.cfg .sliceWidth < s.cfg .picWidth

/-- `thresh_bits[i]` (10_state.md R36). -/
def State.threshBits (s : State) (i : Nat) : Nat := s.cfg (.rcBufThresh i) * 2 ^ 6

/-- `bpgOfs[j]` (10_state.md R36). -/
def State.bpgOfs (s : State) (j : Nat) : Int := sext 6 (s.cfg (.rangeBpgOffset j))

/-- `rcbBits` (10_state.md R36). -/
def State.rcbBits (s : State) : Nat := s.cfg .rcModelSize

end Sys2Proof.Machine
end

