-- ==== Sys2Proof/Machine/Ops.lean ====
section
/-! DEFINITION. The shared operations: what a command's text is made of (00_scope.md R13, R14), taking a fault and
leaving the fault state (60_exceptions.md R443 to R445), the checks before a command (30_encoding.md R132, R134),
register writes that must fit (00_scope.md R10), line-buffer reads (20_memory.md R102) and the bit streams (R109). -/

namespace Sys2Proof.Machine

/-- A read of the state: a value, or the raise it ends in. -/
abbrev Rd (α : Type) := Except Raise α

/-- A piece of a command: it changes the state and answers a value, or raises with the writes made before the raise
kept (00_scope.md R14). -/
abbrev Act (α : Type) := EStateM Raise State α

/-- `raise F(info)`, `info` as 32-bit two's complement (60_exceptions.md R442). -/
def raising (k : FaultKind) (info : Int) : Raise := ⟨k, BitVec.ofInt 32 info⟩

/-- End the piece with a raise (00_scope.md R13). -/
def raise {α : Type} (k : FaultKind) (info : Int) : Act α := fun s => .error (raising k info) s

/-- Raise unless the state meets a condition. -/
def demand (p : State → Bool) (k : FaultKind) (info : State → Int) : Act Unit :=
  fun s => if p s then .ok () s else .error (raising k (info s)) s

/-- Read the state by a read that may raise. -/
def sense {α : Type} (f : State → Rd α) : Act α :=
  fun s =>
    match f s with
    | .ok a => .ok a s
    | .error r => .error r s

/-- Read the state. -/
def look {α : Type} (f : State → α) : Act α := fun s => .ok (f s) s

/-- Write the state. -/
def update (f : State → State) : Act Unit := fun s => .ok () (f s)

/-- Do a piece for each element of a list, in order. -/
def forAll {α : Type} (f : α → Act Unit) : List α → Act Unit
  | [] => pure ()
  | a :: rest => do
    f a
    forAll f rest

/-- Do a piece n times. -/
def times (f : Act Unit) : Nat → Act Unit
  | 0 => pure ()
  | n + 1 => do
    f
    times f n

/-- A read for each element of a list, in order. -/
def readAll {α β : Type} (f : α → Rd β) : List α → Rd (List β)
  | [] => .ok []
  | a :: rest => do
    let b ← f a
    let bs ← readAll f rest
    .ok (b :: bs)

/-- A read for each of the indices 0, 1, 2, in order. -/
def readTri {β : Type} (f : Idx3 → Rd β) : Rd (Tri β) := do
  let b0 ← f .i0
  let b1 ← f .i1
  let b2 ← f .i2
  .ok ⟨b0, b1, b2⟩

/-! ### Taking a fault and leaving the fault state -/

/-- The first fault is recorded, with the word of the faulting command (60_exceptions.md R443). -/
def State.recordFault (r : Raise) (s : State) : State :=
  if s.st.faulted then s
  else
    s.withSt { s.st with faulted := true, faultCode := some r.kind, faultInfo := r.info, faultCmd := s.port.cmd }

/-- A fault ends the slice, the line and the pending group (60_exceptions.md R443). -/
def State.endSlice (s : State) : State :=
  (s.withSt { s.st with sliceActive := false }).withMode { s.mode with lineOpen := false, groupPending := false }

/-- Fault entry (60_exceptions.md R443). -/
def State.enterFault (r : Raise) (s : State) : State := (s.recordFault r).endSlice

/-- Fault exit, the first effect of `SLICE_START` (60_exceptions.md R445, 45_sequencing.md R415). -/
def State.leaveFault (s : State) : State := s.withSt { s.st with faulted := false, faultCode := none }

/-- A command run to its end: its next state, or the state that taking its fault leaves. -/
def complete (m : Act Unit) (s : State) : Host.Outcome State Fault Refusal :=
  match m s with
  | .ok _ t => .next t
  | .error r t => .next (t.enterFault r)

/-- A command that the faulted block discards with no state written (60_exceptions.md R444). -/
def unlessFaulted (m : Act Unit) (s : State) : Host.Outcome State Fault Refusal :=
  if s.st.faulted then .next s else complete m s

/-- An opcode that the faulted block still executes: NOP, CFG_WR, CFG_CHECK, SLICE_START, REG_RD
(60_exceptions.md R444). -/
def runsWhileFaulted (op : Nat) : Bool := op == 0x00 || op == 0x01 || op == 0x02 || op == 0x03 || op == 0x08

/-- A word that fails a field check: `F_ILLEGAL_CMD` with the word (30_encoding.md R132), or discarded in the
faulted state where its opcode is none of the five (60_exceptions.md R444, log entry 14). -/
def illegalWord (w : Word) (s : State) : Host.Outcome State Fault Refusal :=
  if runsWhileFaulted (fieldsOf w).op then complete (raise .illegalCmd w.toInt) s
  else unlessFaulted (raise .illegalCmd w.toInt) s

/-- The command port takes a command: its word and operands are presented together (30_encoding.md R130). -/
def State.present (s : State) (c : Command) (rest : List Command) : State :=
  { s with
    pending := rest
    port := { s.port with cmd := c.word, opA := c.opA, opB := c.opB } }

/-! ### The checks before a command -/

/-- Check 6 for an encoder-only command (30_encoding.md R132). -/
def encoderOnly : Act Unit :=
  demand (fun s => s.st.sliceActive && s.st.isEncoder) .illegalCmd (fun s => s.port.cmd.toInt)

/-- Check 6 for a decoder-only command (30_encoding.md R132). -/
def decoderOnly : Act Unit :=
  demand (fun s => s.st.sliceActive && !s.st.isEncoder) .illegalCmd (fun s => s.port.cmd.toInt)

/-- An "any" command needs a slice, active or done (30_encoding.md R134). -/
def needsSlice : Act Unit := demand (fun s => s.st.sliceActive || s.st.sliceDone) .notActive (fun _ => 0)

/-- A quantizer command needs a checked configuration (30_encoding.md R134). -/
def needsConfig : Act Unit := demand (fun s => s.st.cfgValid) .notActive (fun _ => 0)

/-! ### Registers -/

/-- The raise of a kind by a value that does not fit, with the information its code fixes: the offending value,
`bufferFullness`, or `rcModelFullness` (60_exceptions.md R442). -/
def unfitRaise (s : State) (x : Int) : UnfitKind → Raise
  | .range => raising .range x
  | .bufOverflow => raising .bufOverflow s.fullness
  | .bufUnderflow => raising .bufUnderflow s.fullness
  | .rcModelOverflow => raising .rcModelOverflow s.rc.rcModelFullness.toInt

/-- The raise of a value that does not fit its register where the rule names no kind (00_scope.md R10, log entry 3). -/
def unfit (s : State) (reg : Nat) (x : Int) : Raise := unfitRaise s x (Config.unfitKind reg)

/-- A value for an unsigned register of w bits with the given index. -/
def fitU (w reg : Nat) (x : Int) : Act (BitVec w) :=
  fun s => if 0 ≤ x ∧ x < 2 ^ w then .ok (BitVec.ofInt w x) s else .error (unfit s reg x) s

/-- A value for a signed 32-bit register with the given index. -/
def fitS (reg : Nat) (x : Int) : Act Word :=
  fun s => if -2 ^ 31 ≤ x ∧ x < 2 ^ 31 then .ok (BitVec.ofInt 32 x) s else .error (unfit s reg x) s

/-- `res <- v` (30_encoding.md R130). -/
def State.setRes (s : State) (v : Int) : State := s.withPort { s.port with res := BitVec.ofInt 32 v }

/-- `res <- v` as a piece of a command. -/
def writeRes (v : Int) : Act Unit := update (fun s => s.setRes v)

/-! ### Line buffers -/

/-- The storage spaces that `F_UNINIT` names (60_exceptions.md R442). -/
inductive UninitSpace where
  | prev
  | cur
  | orig
  | ich
  deriving DecidableEq, Repr

/-- The number of a space in `FAULT_INFO` (60_exceptions.md R442). -/
def uninitSpaceCode : UninitSpace → Nat
  | .prev => 1
  | .cur => 2
  | .orig => 3
  | .ich => 4

/-- `F_UNINIT` with `{space[31:28], c[25:24], i[15:0]}` (60_exceptions.md R442). -/
def uninitAt (sp : UninitSpace) (c i : Nat) : Raise :=
  raising .uninit (uninitSpaceCode sp * 2 ^ 28 + c * 2 ^ 24 + i % 2 ^ 16)

/-- An element of a line buffer; an unspecified one raises `F_UNINIT` (10_state.md R49). -/
def readCell (sp : UninitSpace) (b : LineBuf) (c : Cpnt) (i : Nat) : Rd Int :=
  match storeRead (b.get c) i with
  | some v => .ok v.toNat
  | none => .error (uninitAt sp c.toNat i)

/-- A line buffer with one element written. -/
def writeCell (b : LineBuf) (c : Cpnt) (i : Nat) (v : Sample) : LineBuf := b.set c (storeWrite (b.get c) i v)

/-- `CLAMP(i, 0, W - 1)` as an element number. -/
def clampIndex (s : State) (i : Int) : Nat := (clampInt i 0 ((s.width : Int) - 1)).toNat

/-- `prevRead(c, i)` (20_memory.md R102). -/
def prevRead (s : State) (c : Cpnt) (i : Int) : Rd Int :=
  if s.vPos = 0 then .error (uninitAt .prev c.toNat (clampIndex s i)) else readCell .prev s.prev c (clampIndex s i)

/-- `leftPad(c)` (20_memory.md R102). -/
def leftPad (s : State) (c : Cpnt) : Rd Int :=
  if s.vPos = 0 then .ok (2 ^ (s.depth c - 1)) else prevRead s c 0

/-- `curRead(c, i)` (20_memory.md R102). -/
def curRead (s : State) (c : Cpnt) (i : Int) : Rd Int :=
  if i < 0 then leftPad s c else readCell .cur s.cur c i.toNat

/-- `origRead(c, i)` (20_memory.md R102). -/
def origRead (s : State) (c : Cpnt) (i : Int) : Rd Int :=
  readCell .orig s.orig c (if i < 0 then 0 else min i.toNat (s.width - 1))

/-- `cur[c][i] <- v` (20_memory.md R103). -/
def State.setCur (s : State) (c : Cpnt) (i : Nat) (v : Int) : State :=
  s.withCur (writeCell s.cur c i (BitVec.ofInt 16 v))

/-- `prev[c][i] <- v` (20_memory.md R103). -/
def State.setPrev (s : State) (c : Cpnt) (i : Nat) (v : Int) : State :=
  s.withPrev (writeCell s.prev c i (BitVec.ofInt 16 v))

/-- `orig[c][i] <- v` (20_memory.md R103). -/
def State.setOrig (s : State) (c : Cpnt) (i : Nat) (v : Int) : State :=
  s.withOrig (writeCell s.orig c i (BitVec.ofInt 16 v))

/-- `pred[c][i] <- p; qres[c][i] <- e` (10_state.md R48). -/
def State.setScratch (s : State) (c : Cpnt) (i : Pix) (p e : Int) : State :=
  s.withScratch
    { qres := s.scratch.qres.set c ((s.scratch.qres.get c).set i (BitVec.ofInt 32 e))
      pred := s.scratch.pred.set c ((s.scratch.pred.get c).set i (BitVec.ofInt 32 p)) }

/-! ### Bit streams -/

/-- The sink accepts n more bits of a substream (20_memory.md R109). -/
def BitIo.accepts (io : BitIo) (ss : Cpnt) (n : Nat) : Bool :=
  match io.sinkRoom.get ss with
  | none => true
  | some r => n ≤ r

/-- The streams after the sink has taken some bits of a substream. -/
def BitIo.put (io : BitIo) (ss : Cpnt) (bs : List Bool) : BitIo :=
  { io with
    sink := io.sink.set ss (io.sink.get ss ++ bs)
    sinkRoom := io.sinkRoom.set ss ((io.sinkRoom.get ss).map (fun r => r - bs.length)) }

/-- Send a bit string to a substream in one call, and answer its length; a full sink raises `F_BITIO` and takes none
of it (20_memory.md R109). -/
def putList (ss : Cpnt) (bs : List Bool) : Act Nat := fun s =>
  if s.io.accepts ss bs.length then .ok bs.length (s.withIo (s.io.put ss bs))
  else .error (raising .bitio ss.toNat) s

/-- `PutBits(ss, n, v)` (00_scope.md R13, 20_memory.md R109). -/
def putBits (ss : Cpnt) (n v : Nat) : Act Nat := putList ss (toBits n v)

/-- `GetBits(ss, n)`; an empty source raises `F_BITIO` and gives none of them (00_scope.md R13, 20_memory.md R109). -/
def getBits (ss : Cpnt) (n : Nat) : Act Nat := fun s =>
  let bs := s.io.source.get ss
  if n ≤ bs.length then .ok (ofBits (bs.take n)) (s.withIo { s.io with source := s.io.source.set ss (bs.drop n) })
  else .error (raising .bitio ss.toNat) s

/-- Read a unary code: count zero bits up to the first 1, or up to `vmax` (30_encoding.md R150, log entry 11). -/
def getUnary (ss : Cpnt) : Nat → Act Nat
  | 0 => pure 0
  | n + 1 => do
    let b ← getBits ss 1
    if b = 1 then pure 0
    else do
      let v ← getUnary ss n
      pure (v + 1)

end Sys2Proof.Machine
end

