-- ==== Sys2Proof/Machine/Quantizer.lean ====
section
/-! DEFINITION. The quantizer (41_quantizer.md): MAPQ, QUANT, DEQUANT, RSIZE, RECON and their functions. -/

namespace Sys2Proof.Machine

/-- The table of a component: chroma only for Co and Cg of YCoCg (R232). -/
def qlutOf (s : State) (c : Cpnt) : List Nat := if s.isChroma c then qlutChroma s.bpc else qlutLuma s.bpc

/-- `MapQpToLevel(qp, c)` (R232). -/
def mapQpToLevel (s : State) (c : Cpnt) (qp : Int) : Rd Nat :=
  if qp < 0 ∨ (maxQp s.bpc : Int) < qp then .error (raising .range qp)
  else
    match (qlutOf s c)[qp.toNat]? with
    | some q => .ok q
    | none => .error (raising .range qp)

/-- `QuantOffset(q)` for q > 0 (R233). -/
def quantOffset (q : Nat) : Int := 2 ^ (q - 1) - 1

/-- `quantize(e, q)` (R234). -/
def quantize (e : Int) (q : Nat) : Int :=
  if q = 0 then e
  else if 0 < e then shr (e + quantOffset q) q
  else -shr (quantOffset q - e) q

/-- `dequantize(eq, q) = eq << q` (R236). -/
def dequantize (eq : Int) (q : Nat) : Int := eq * 2 ^ q

/-- `maxQuantErr(c, q) = (1 << q) >> 1` (R237). -/
def maxQuantErr (q : Nat) : Nat := 2 ^ q / 2

/-- `residualSize(eq)`: 0 for 0, else the least n >= 1 with `-2^(n-1) <= eq <= 2^(n-1) - 1` (R238). -/
def residualSize (eq : Int) : Nat :=
  if eq = 0 then 0
  else
    let m := if 0 ≤ eq then eq.toNat else (-eq - 1).toNat
    if m = 0 then 1 else Nat.log2 m + 2

/-- The greatest residual size of a unit's three residuals (R239, 44_entropy.md R377). -/
def residualSize3 (eq : Tri Int) : Nat :=
  max (residualSize eq.a0) (max (residualSize eq.a1) (residualSize eq.a2))

/-- `recon(c, P, deq) = CLAMP(P + deq, 0, maxval[c])` (R240). -/
def reconSample (s : State) (c : Cpnt) (p deq : Int) : Int := clampInt (p + deq) 0 (s.maxval c)

/-- A level operand of QUANT or DEQUANT: 0 to 12, else `F_RANGE(q)` (R234, R236). -/
def demandLevel : Act Unit := demand (fun s => decide (0 ≤ s.opB ∧ s.opB ≤ 12)) .range (fun s => s.opB)

/-- `MAPQ` (R232). -/
def execMapq (c : Cpnt) (s : State) : Host.Outcome State Fault Refusal :=
  unlessFaulted (do
    needsConfig
    let q ← sense (fun s => mapQpToLevel s c s.opA)
    writeRes q) s

/-- `QUANT` (R234). -/
def execQuant (s : State) : Host.Outcome State Fault Refusal :=
  unlessFaulted (do
    needsConfig
    demandLevel
    let v ← look (fun s => quantize s.opA s.opB.toNat)
    writeRes v) s

/-- `DEQUANT`; a result outside the 32-bit signed range raises `F_RANGE(opA)` (R236). -/
def execDequant (s : State) : Host.Outcome State Fault Refusal :=
  unlessFaulted (do
    needsConfig
    demandLevel
    let v ← look (fun s => dequantize s.opA s.opB.toNat)
    demand (fun _ => decide (-2 ^ 31 ≤ v ∧ v < 2 ^ 31)) .range (fun s => s.opA)
    writeRes v) s

/-- `RSIZE` (R238). -/
def execRsize (s : State) : Host.Outcome State Fault Refusal :=
  unlessFaulted (do
    needsConfig
    let v ← look (fun s => residualSize s.opA)
    writeRes v) s

/-- `RECON` (R240). -/
def execRecon (c : Cpnt) (s : State) : Host.Outcome State Fault Refusal :=
  unlessFaulted (do
    needsConfig
    let v ← look (fun s => reconSample s c s.opA s.opB)
    writeRes v) s

end Sys2Proof.Machine
end

