-- ==== Sys2Proof/Machine/Prediction.lean ====
section
/-! DEFINITION. The prediction MUX (40_prediction.md sections 1 to 4): PRED, MIDPOINT and their functions. -/

namespace Sys2Proof.Machine

/-- The MAP neighbourhood of a group, filtered and blended (R182, R183): a, and the blends of C, B, D and E. -/
structure MapBlend where
  a : Int
  blendC : Int
  blendB : Int
  blendD : Int
  blendE : Int
  deriving DecidableEq, Repr

/-- One blended neighbour: the 3-tap filter of l, m, r, held within half a step of m (R183). -/
def blend (half l m r : Int) : Int := m + clampInt (shr (l + 2 * m + r + 2) 2 - m) (-half) half

/-- The blended neighbourhood of component c and the group at gs, at level q (R182, R183). -/
def mapBlend (s : State) (c : Cpnt) (gs : Int) (q : Nat) : Rd MapBlend := do
  let a ← curRead s c (gs - 1)
  let cc ← prevRead s c (gs - 2)
  let c1 ← prevRead s c (gs - 1)
  let b ← prevRead s c gs
  let d ← prevRead s c (gs + 1)
  let e ← prevRead s c (gs + 2)
  let f ← prevRead s c (gs + 3)
  let half : Int := maxQuantErr q
  .ok ⟨a, blend half cc c1 b, blend half c1 b d, blend half b d e, blend half d e f⟩

/-- The MAP prediction of pixel i from a blended neighbourhood (R185). -/
def MapBlend.predict (m : MapBlend) (i : Pix) (r0 r1 : Int) : Int :=
  match i with
  | .i0 => clampInt (m.a + m.blendB - m.blendC) (min m.a m.blendB) (max m.a m.blendB)
  | .i1 =>
    clampInt (m.a + m.blendD - m.blendC + r0) (min m.a (min m.blendB m.blendD)) (max m.a (max m.blendB m.blendD))
  | .i2 =>
    clampInt (m.a + m.blendE - m.blendC + r0 + r1) (min m.a (min m.blendB (min m.blendD m.blendE)))
      (max m.a (max m.blendB (max m.blendD m.blendE)))

/-- `mapPred(c, gs, i, q, R0, R1)` (R185). -/
def mapPred (s : State) (c : Cpnt) (gs : Int) (i : Pix) (q : Nat) (r0 r1 : Int) : Rd Int := do
  let m ← mapBlend s c gs q
  .ok (m.predict i r0 r1)

/-- `leftPred(c, h)` (R187). -/
def leftPred (s : State) (c : Cpnt) (h : Nat) : Rd Int := curRead s c (h - 1)

/-- `bpPred(c, h, -v)`: the sample v pixels to the left (R188). -/
def bpPred (s : State) (c : Cpnt) (h v : Nat) : Rd Int := curRead s c (h - v)

/-- `midpoint(c, gs, q)` (R189). -/
def midpointOf (s : State) (c : Cpnt) (gs : Int) (q : Nat) : Rd Int := do
  let left ← curRead s c (gs - 1)
  .ok (2 ^ (s.depth c - 1) + left % 2 ^ q)

/-- The index of a pixel position in its group (00_scope.md R17). -/
def pixOf (h : Nat) : Pix :=
  match h % 3 with
  | 0 => .i0
  | 1 => .i1
  | _ => .i2

/-- The result of `PRED` with `sel` = MAP (R196). -/
def predMap (c : Cpnt) (h : Nat) : Act Int := do
  demand (fun s => decide (0 ≤ s.opA ∧ s.opA ≤ s.depth c)) .range (fun s => s.opA)
  sense (fun s => mapPred s c (groupStart h) (pixOf h) s.opA.toNat s.opBLow s.opBHigh)

/-- The result of `PRED` with `sel` = BP: `-opA` must be a candidate vector (R196). -/
def predBp (c : Cpnt) (h : Nat) : Act Int := do
  demand (fun s => decide (0 ≤ s.opA ∧ s.opA.toNat ∈ bpCandidates)) .range (fun s => s.opA)
  sense (fun s => bpPred s c h s.opA.toNat)

/-- The result of `PRED` (R196). -/
def predValue (c : Cpnt) (sel : PredClass) (h : Nat) : Act Int :=
  match sel with
  | .left => sense (fun s => leftPred s c h)
  | .map => predMap c h
  | .bp => predBp c h

/-- `PRED` (R196). -/
def execPred (c : Cpnt) (sel : PredClass) (h : Nat) (s : State) : Host.Outcome State Fault Refusal :=
  unlessFaulted (do
    needsSlice
    demand (fun s => decide (h ≤ s.width + 1)) .range (fun _ => h)
    let v ← predValue c sel h
    writeRes v) s

/-- The group start operand: a multiple of 3 inside the line, else `F_RANGE` (R198, 42_ich.md R266,
43_rate_control.md R340). -/
def demandGroupStart (gs : Nat) : Act Unit := demand (fun s => decide (gs % 3 = 0 ∧ gs < s.width)) .range (fun _ => gs)

/-- `MIDPOINT` (R198). -/
def execMidpoint (c : Cpnt) (gs : Nat) (s : State) : Host.Outcome State Fault Refusal :=
  unlessFaulted (do
    needsSlice
    demandGroupStart gs
    demand (fun s => decide (0 ≤ s.opA ∧ s.opA < s.depth c)) .range (fun s => s.opA)
    let v ← sense (fun s => midpointOf s c gs s.opA.toNat)
    writeRes v) s

end Sys2Proof.Machine
end

