-- ==== Sys2Proof/Machine/Ich.lean ====
section
/-! DEFINITION. The index cache history (42_ich.md): ICH_LOOKUP, ICH_TEST, ICH_PICK, clearing and update. -/

namespace Sys2Proof.Machine

/-- `R(vPos)`: the cache slots in use (R261). -/
def ichSlots (s : State) : Nat := if s.vPos = 0 then ichSize else ichSize - ichAbove

/-- Entry number k names a pixel of the line above (R261). -/
def ichIsAbove (s : State) (k : Nat) : Bool := decide (1 ≤ s.vPos ∧ ichSlots s ≤ k)

/-- `ich[k]`. -/
def ichEntry (s : State) (k : Nat) : IchEntry := s.ich.getD k IchEntry.empty

/-- Entry k is valid at a group (R262). -/
def ichValidAt (s : State) (k : Nat) : Bool := ichIsAbove s k || (ichEntry s k).valid

/-- The window centre of the group at gs (R262). -/
def ichCenter (s : State) (gs : Int) : Int :=
  max ((ichAbove / 2 : Nat) : Int) (min (gs + 1) ((s.width : Int) - 1 - (ichAbove / 2 : Nat)))

/-- `historyLookup(k, c, gs)` (R262). -/
def historyLookup (s : State) (k : Nat) (c : Cpnt) (gs : Int) : Rd Int :=
  if ichIsAbove s k then prevRead s c (ichCenter s gs + ((k : Int) - ichSlots s) - (ichAbove / 2 : Nat))
  else if (ichEntry s k).valid then .ok ((ichEntry s k).v.get c).toNat
  else .error (uninitAt .ich 0 k)

/-- The entry numbers valid at a group, in increasing order (R262, R267). -/
def ichValidList (s : State) : List Nat := (List.range ichSize).filter (ichValidAt s)

/-- `abs(origRead(c, i) - historyLookup(k, c, gs))` of each component (R265, R267). -/
def ichDiff (s : State) (i gs : Int) (k : Nat) : Rd (Tri Nat) :=
  readTri (fun c => do
    let o ← origRead s c i
    let v ← historyLookup s k c gs
    .ok (absNat (o - v)))

/-- The differences of a pixel from each of a list of entries; with no entry the original is not read
(R265, R267, log entry 10). -/
def ichDiffs (s : State) (i gs : Int) (ks : List Nat) : Rd (List (Nat × Tri Nat)) :=
  readAll (fun k => do
    let d ← ichDiff s i gs k
    .ok (k, d)) ks

/-- The levels of the current QP: `q[c] = MapQpToLevel(st.masterQp, c)`. -/
def masterLevels (s : State) : Rd (Tri Nat) := readTri (fun c => mapQpToLevel s c s.masterQp)

/-- A difference is within the maximum quantization error of every component (R265). -/
def withinErr (q : Tri Nat) (d : Tri Nat) : Bool :=
  decide (d.a0 ≤ maxQuantErr q.a0 ∧ d.a1 ≤ maxQuantErr q.a1 ∧ d.a2 ≤ maxQuantErr q.a2)

/-- `isOrigWithinQuantError(gs)` (R265). -/
def isOrigWithinQuantError (s : State) (gs : Nat) : Rd Bool := do
  let q ← masterLevels s
  let ok ← readTri (fun i => do
    let ds ← ichDiffs s (gs + i.toNat) gs (ichValidList s)
    .ok (ds.any (fun d => withinErr q d.2)))
  .ok (ok.a0 && ok.a1 && ok.a2)

/-- The weighted sum of absolute differences: luma 2, chroma 1 each (R267, 00_scope.md R8). -/
def weightedSad (d : Tri Nat) : Nat := 2 * d.a0 + d.a1 + d.a2

/-- The first entry of least SAD in a list (R267). -/
def bestEntry : List (Nat × Tri Nat) → Option (Nat × Nat)
  | [] => none
  | (k, d) :: rest =>
    match bestEntry rest with
    | none => some (k, weightedSad d)
    | some (k', m) => if m < weightedSad d then some (k', m) else some (k, weightedSad d)

/-- `pickBestHistoryValue(h)` (R267). -/
def pickBestHistoryValue (s : State) (h : Nat) : Rd (Option Nat) := do
  let ds ← ichDiffs s h (groupStart h) (ichValidList s)
  .ok ((bestEntry ds).map Prod.fst)

/-- Slice-start clear (R270). -/
def ichClear (l : List IchEntry) : List IchEntry := l.map (fun e => { e with valid := false })

/-- Line-start partial clear: entries 0 .. R-1 become invalid (R271). -/
def ichPartialClear (n : Nat) (l : List IchEntry) : List IchEntry := ichClear (l.take n) ++ l.drop n

/-- Entry e is valid and holds the triple P (R272). -/
def IchEntry.holds (e : IchEntry) (p : Tri Sample) : Bool := e.valid && e.v == p

/-- `updateHistoryElement(P, sel)` on n cache slots; `sel` does not change the result (R272). -/
def ichInsert (n : Nat) (p : Tri Sample) (l : List IchEntry) : List IchEntry :=
  let j := ((l.take n).findIdx? (fun e => e.holds p)).getD (n - 1)
  ⟨true, p⟩ :: (l.take j ++ l.drop (j + 1))

/-- The real pixels of the group at gs: `min(3, W - gs)` (R273). -/
def realPixels (s : State) (gs : Nat) : Nat := min 3 (s.width - gs)

/-- The reconstructed pixel triple at a position. -/
def curTriple (s : State) (i : Nat) : Rd (Tri Sample) :=
  readTri (fun c => do
    let v ← readCell .cur s.cur c i
    .ok (BitVec.ofInt 16 v))

/-- One pixel's update of the cache (R272, R273). -/
def ichUpdatePixel (i : Nat) : Act Unit := do
  let p ← sense (fun s => curTriple s i)
  update (fun s => s.withIch (ichInsert (ichSlots s) p s.ich))

/-- The update after a group (R273). -/
def ichUpdateGroup (gs : Nat) (isIch : Bool) : Act Unit := do
  let n ← look (fun s => realPixels s gs)
  if ichUpdatePolicy = .everyGroup ∨ isIch = true then forAll (fun j => ichUpdatePixel (gs + j)) (List.range n)
  else pure ()

/-- `ICH_LOOKUP` (R264). -/
def execIchLookup (c : Cpnt) (k : Nat) (s : State) : Host.Outcome State Fault Refusal :=
  unlessFaulted (do
    needsSlice
    demand (fun _ => decide (k < ichSize)) .range (fun _ => k)
    demand (fun s => decide (0 ≤ s.opA ∧ s.opA < s.width)) .range (fun s => s.opA)
    let v ← sense (fun s => historyLookup s k c (groupStart s.opA.toNat))
    writeRes v) s

/-- `ICH_TEST` (R266). -/
def execIchTest (gs : Nat) (s : State) : Host.Outcome State Fault Refusal :=
  unlessFaulted (do
    encoderOnly
    demandGroupStart gs
    let b ← sense (fun s => isOrigWithinQuantError s gs)
    writeRes b.toNat) s

/-- `ICH_PICK` (R268). -/
def execIchPick (h : Nat) (s : State) : Host.Outcome State Fault Refusal :=
  unlessFaulted (do
    encoderOnly
    demand (fun s => decide (h < s.width + 2)) .range (fun _ => h)
    let b ← sense (fun s => pickBestHistoryValue s h)
    writeRes (match b with
      | none => -1
      | some k => k)) s

end Sys2Proof.Machine
end

