-- ==== Sys2Proof/Machine/Access.lean ====
section
/-! DEFINITION. Sample and register access (45_sequencing.md section 3): ORIG_WR, PIX_RD, REG_RD, and the register
index map (20_memory.md R101, 10_state.md R40 to R48). -/

namespace Sys2Proof.Machine

/-- `ORIG_WR` (R419). -/
def execOrigWr (c : Cpnt) (i : Nat) (s : State) : Host.Outcome State Fault Refusal :=
  unlessFaulted (do
    encoderOnly
    demand (fun s => decide (i < s.width)) .range (fun _ => i)
    demand (fun s => decide (0 ≤ s.opA ∧ s.opA ≤ s.maxval c)) .range (fun s => s.opA)
    update (fun s => s.setOrig c i s.opA)) s

/-- `PIX_RD` (R420). -/
def execPixRd (c : Cpnt) (i : Nat) (s : State) : Host.Outcome State Fault Refusal :=
  unlessFaulted (do
    needsSlice
    demand (fun s => decide (i < s.width + 2)) .range (fun _ => i)
    let v ← sense (fun s => readCell .cur s.cur c i)
    writeRes v) s

/-- A register of w bits as `REG_RD` returns it, zero-extended (20_memory.md R101). -/
def zext {w : Nat} (v : BitVec w) : Word := v.setWidth 32

/-- A one-bit register, zero-extended. -/
def bitWord (b : Bool) : Word := BitVec.ofNat 32 b.toNat

/-- A flatness record as the 4 bits valid, type, pos (10_state.md R46). -/
def FlatRec.word (f : FlatRec) : Word := BitVec.ofNat 32 (f.valid.toNat * 8 + f.very.toNat * 4 + f.pos.toNat)

/-- `flatThisGroup` as 0, 1 or 2 (10_state.md R46). -/
def Flatness.toNat : Flatness → Nat
  | .none => 0
  | .somewhat => 1
  | .very => 2

/-- Three registers at consecutive indices. -/
def triRegs (base : Nat) (t : Tri Word) : List (Nat × Word) := [(base, t.a0), (base + 1, t.a1), (base + 2, t.a2)]

/-- A triple with each element turned into what `REG_RD` returns. -/
def triMap {α β : Type} (f : α → β) (t : Tri α) : Tri β := ⟨f t.a0, f t.a1, f t.a2⟩

/-- The eight costs of one window slot at consecutive indices (10_state.md R47). -/
def costRegs (base : Nat) (k : BpCost) : List (Nat × Word) :=
  (List.range 8).map (fun j => (base + j, zext (k.bp.getD j 0)))

/-- The registers of 10_state.md R40 to R43, by index. -/
def codecRegs1 (s : State) : List (Nat × Word) :=
  [(0x0301, zext s.pos.vPos), (0x0302, zext s.pos.hPos), (0x0303, zext s.pos.groupInLine),
    (0x0304, s.pos.groupCount), (0x0305, s.pos.pixelCount), (0x0306, s.pos.codedBitsTotal),
    (0x0310, zext s.qp.masterQp), (0x0311, zext s.qp.prevQp),
    (0x0320, s.buf.bufferFullness), (0x0321, zext s.buf.bpgFracAccum), (0x0322, bitWord s.buf.removalStarted),
    (0x0323, s.buf.chunkPixelCount), (0x0324, s.buf.numBitsChunk), (0x0325, s.buf.clampedBits),
    (0x0326, s.buf.chunkIndex),
    (0x0330, zext s.rc.rcXformScale), (0x0331, s.rc.rcXformOffsetFx), (0x0332, zext s.rc.scaleDecCount),
    (0x0333, zext s.rc.scaleIncCount), (0x0334, bitWord s.rc.scaleIncrementStart), (0x0335, s.rc.rcModelFullness),
    (0x0336, zext s.rc.rcRange), (0x0337, s.rc.rcTgtBitsGroup)]

/-- The registers of 10_state.md R44 to R46, by index. -/
def codecRegs2 (s : State) : List (Nat × Word) :=
  [(0x0340, zext s.size.codedGroupSize), (0x0341, zext s.size.rcSizeGroup), (0x0342, zext s.size.rcSizeGroupPrev)]
    ++ triRegs 0x0343 (triMap zext s.size.predictedSize)
    ++ [(0x0346, zext s.size.prevPredQp)]
    ++ triRegs 0x0347 (triMap zext s.size.sizeUsed)
    ++ triRegs 0x034A (triMap bitWord s.size.mppUsed)
    ++ [(0x0350, bitWord s.mode.ichSelected), (0x0351, bitWord s.mode.prevIchSelected),
      (0x0352, bitWord s.mode.forceMpp)]
    ++ triRegs 0x0353 (triMap zext s.mode.ichIdx)
    ++ [(0x0356, bitWord s.mode.groupPending), (0x0357, bitWord s.mode.lineOpen),
      (0x0360, s.flat.flatNext.word), (0x0361, s.flat.flatCur.word), (0x0362, zext s.flat.sgPos),
      (0x0363, BitVec.ofNat 32 s.flat.flatThisGroup.toNat)]

/-- The registers of 10_state.md R47 and R48 below 0x0400, by index. -/
def codecRegs3 (s : State) : List (Nat × Word) :=
  costRegs 0x0370 s.bp.window.a0 ++ costRegs 0x0378 s.bp.window.a1 ++ costRegs 0x0380 s.bp.window.a2
    ++ triRegs 0x0388 (triMap (fun k => zext k.map) s.bp.window)
    ++ [(0x038B, zext s.bp.bpRun), (0x038C, zext s.bp.edgeHold), (0x038D, zext s.bp.bpGroupsSeen)]
    ++ triRegs 0x03A0 s.scratch.qres.a0 ++ triRegs 0x03A3 s.scratch.qres.a1 ++ triRegs 0x03A6 s.scratch.qres.a2
    ++ triRegs 0x03B0 s.scratch.pred.a0 ++ triRegs 0x03B3 s.scratch.pred.a1 ++ triRegs 0x03B6 s.scratch.pred.a2

/-- The codec registers at their indices (10_state.md R40 to R48). -/
def codecRegs (s : State) : List (Nat × Word) := codecRegs1 s ++ codecRegs2 s ++ codecRegs3 s

/-- Word j of an ICH entry: a component value, or the valid bit; the value of an invalid entry reads 0
(20_memory.md R100, 45_sequencing.md R421). -/
def ichWord (e : IchEntry) (j : Nat) : Word :=
  match j with
  | 0 => if e.valid then zext e.v.a0 else 0
  | 1 => if e.valid then zext e.v.a1 else 0
  | 2 => if e.valid then zext e.v.a2 else 0
  | _ => bitWord e.valid

/-- Element g of the history array at 0x8000, 0xA000, 0xC000 or 0xE000 (10_state.md R47). -/
def historyWord (s : State) (array g : Nat) : Word :=
  match array with
  | 0 => BitVec.ofNat 32 (s.bp.ptypeCur.getD g .left).toNat
  | 1 => zext (s.bp.bpVecCur.getD g 0)
  | 2 => BitVec.ofNat 32 (s.bp.ptypeNext.getD g .left).toNat
  | _ => zext (s.bp.bpVecNext.getD g 0)

/-- How many elements of each history array are mapped: NG as the last passing `CFG_CHECK` computed it, and no fewer than
the slice that wrote them has, for they stay readable until the next `SLICE_START` (20_memory.md R101, 10_state.md R36;
DESIGN CHOICE, log entry 9). -/
def historyCount (s : State) : Nat := max s.ngChecked.toNat s.bp.ngSlice.toNat

/-- The codec state, ICH store and block-prediction history at an index, if the index is mapped (20_memory.md R101). Each
count is below 0x2000, so the four history ranges are disjoint. -/
def codecWord (s : State) (idx : Nat) : Option Word :=
  if idx < 0x1000 then storeRead (codecRegs s) idx
  else if idx < 0x1080 then some (ichWord (ichEntry s ((idx - 0x1000) / 4)) ((idx - 0x1000) % 4))
  else if 0x8000 ≤ idx ∧ idx < 0x10000 then
    if (idx - 0x8000) % 0x2000 < historyCount s then some (historyWord s ((idx - 0x8000) / 0x2000) ((idx - 0x8000) % 0x2000))
    else none
  else none

/-- The register at an index, or the raise of reading it (45_sequencing.md R421, 20_memory.md R101). -/
def regRead (s : State) (idx : Nat) : Rd Word :=
  if idx ≤ 0x007F then .ok (zext (memRead s.mem idx))
  else if idx = 0x0100 then .ok (zext s.flatThresh)
  else if idx = 0x0200 then .ok s.st.word
  else if idx = 0x0201 then .ok s.st.faultInfo
  else if idx = 0x0202 then .ok s.st.faultCmd
  else
    match codecWord s idx with
    | none => .error (raising .badIndex idx)
    | some v => if s.st.stateValid then .ok v else .error (raising .notActive idx)

/-- `REG_RD` (R421). -/
def execRegRd (idx : Nat) (s : State) : Host.Outcome State Fault Refusal :=
  complete (do
    let v ← sense (fun s => regRead s idx)
    writeRes v.toInt) s

end Sys2Proof.Machine
end

