-- ==== Sys2Proof/Machine/Configuration.lean ====
section
/-! DEFINITION. Housekeeping and configuration (45_sequencing.md section 1): NOP, CFG_WR, CFG_CHECK. -/

namespace Sys2Proof.Machine

/-- `NOP` (R410). -/
def execNop (s : State) : Host.Outcome State Fault Refusal := complete (pure ()) s

/-- Configuration is locked while a slice is active (R411, R413, R415, 10_state.md R35). -/
def unlocked (idx : Nat) : Act Unit := demand (fun s => !s.st.sliceActive) .cfgLocked (fun _ => idx)

/-- `opA` lies in 0 .. top, else `F_RANGE(opA)` (R411). -/
def demandOpA (top : Int) : Act Unit := demand (fun s => decide (0 ≤ s.opA ∧ s.opA ≤ top)) .range (fun s => s.opA)

/-- `opA & 255` as a byte. -/
def State.opAByte (s : State) : Byte := BitVec.ofInt 8 s.opA

/-- The write of `CFG_WR` (R411). -/
def writeConfig (idx : Nat) : Act Unit :=
  if idx ≤ 0x007F then do
    demandOpA 255
    update (fun s => s.withMem (memWrite s.mem idx (clearReserved idx s.opAByte)))
  else if idx = 0x0100 then do
    demandOpA 65535
    update (fun s => s.withFlatThresh (BitVec.ofInt 16 s.opA))
  else raise .badIndex idx

/-- `CFG_WR` (R411). -/
def execCfgWr (idx : Nat) (s : State) : Host.Outcome State Fault Refusal :=
  complete (do
    unlocked idx
    writeConfig idx
    update (fun s => s.withSt { s.st with cfgValid := false, sliceDone := false })) s

/-- One check of `CFG_CHECK`: what must hold, and what a failure raises (R413). -/
structure CfgTest where
  ok : Bool
  kind : FaultKind
  bit : Nat
  deriving DecidableEq, Repr

/-- A range check on a field: its failure names the field's first stream bit (R413). -/
def rangeTest (f : PpsField) (ok : Bool) : CfgTest := ⟨ok, .cfgRange, f.first⟩

/-- An order check on a field (R413). -/
def orderTest (f : PpsField) (ok : Bool) : CfgTest := ⟨ok, .cfgOrder, f.first⟩

/-- An order check between a field and its later neighbour: the failing field is one of the two (R413, log
entry 4). -/
def pairTest (f f' : PpsField) (ok : Bool) : CfgTest :=
  ⟨ok, .cfgOrder, if Config.laterOfPair f.first then f'.first else f.first⟩

/-- Checks 1 to 5 (R413). -/
def cfgTests1 (s : State) : List CfgTest :=
  [rangeTest .versionMajor (s.cfg .versionMajor == 1),
    rangeTest .versionMinor (s.cfg .versionMinor == 1),
    rangeTest .bitsPerComponent (s.bpc == 8 || s.bpc == 10 || s.bpc == 12),
    rangeTest .linebufDepth (decide (8 ≤ s.cfg .linebufDepth ∧ s.cfg .linebufDepth ≤ 15)),
    ⟨s.cfg .enable422 == 0, .cfgUnsupported, PpsField.enable422.first⟩,
    rangeTest .bitsPerPixel (decide (1 ≤ s.cfg .bitsPerPixel ∧ s.cfg .bitsPerPixel ≤ 1023))]

/-- Checks 6 to 11 (R413). -/
def cfgTests2 (s : State) : List CfgTest :=
  [rangeTest .sliceHeight (decide (1 ≤ s.height)),
    rangeTest .sliceWidth (decide (1 ≤ s.width ∧ s.width ≤ lineMax)),
    rangeTest .picHeight (decide (s.height ≤ s.cfg .picHeight)),
    rangeTest .picWidth (decide (s.width ≤ s.cfg .picWidth)),
    rangeTest .chunkSize (decide (1 ≤ s.cfg .chunkSize)),
    rangeTest .initialScaleValue (decide (8 ≤ s.cfg .initialScaleValue ∧ s.cfg .initialScaleValue ≤ 63)),
    rangeTest .rcModelSize (decide (1 ≤ s.cfg .rcModelSize)),
    orderTest .initialOffset (decide (s.cfg .initialOffset ≤ s.cfg .rcModelSize)),
    orderTest .finalOffset (decide (s.cfg .finalOffset ≤ s.cfg .rcModelSize)),
    rangeTest .flatnessMinQp (decide (s.cfg .flatnessMinQp ≤ maxQp s.bpc)),
    rangeTest .flatnessMaxQp (decide (s.cfg .flatnessMaxQp ≤ maxQp s.bpc))]

/-- Check 12: the thresholds (R413). -/
def cfgTests3 (s : State) : List CfgTest :=
  (List.range 13).map (fun i =>
      pairTest (.rcBufThresh i) (.rcBufThresh (i + 1))
        (decide (s.cfg (.rcBufThresh i) < s.cfg (.rcBufThresh (i + 1)))))
    ++ [orderTest (.rcBufThresh 13) (decide (s.cfg (.rcBufThresh 13) * 64 < s.cfg .rcModelSize))]

/-- Check 13 for range j (R413). -/
def cfgTestsRange (s : State) (j : Nat) : List CfgTest :=
  [rangeTest (.rangeMaxQp j) (decide (s.cfg (.rangeMaxQp j) ≤ maxQp s.bpc)),
    orderTest (.rangeMinQp j) (decide (s.cfg (.rangeMinQp j) ≤ s.cfg (.rangeMaxQp j)))]
    ++ (if j = 0 then []
      else
        [pairTest (.rangeMinQp (j - 1)) (.rangeMinQp j)
            (decide (s.cfg (.rangeMinQp (j - 1)) ≤ s.cfg (.rangeMinQp j))),
          pairTest (.rangeMaxQp (j - 1)) (.rangeMaxQp j)
            (decide (s.cfg (.rangeMaxQp (j - 1)) ≤ s.cfg (.rangeMaxQp j)))])

/-- Every check of `CFG_CHECK`, in order (R413). -/
def cfgTests (s : State) : List CfgTest :=
  cfgTests1 s ++ cfgTests2 s ++ cfgTests3 s ++ (List.range 15).flatMap (cfgTestsRange s)

/-- The first failing check (R413). -/
def firstFailing (ts : List CfgTest) : Option CfgTest := ts.find? (fun t => !t.ok)

/-- The configuration passes every check (R413). -/
def cfgLegal (s : State) : Bool := (cfgTests s).all (fun t => t.ok)

/-- `FLATNESS_DET_THRESH` after a pass: 0 becomes the default (10_state.md R34, R413). -/
def defaultThresh (s : State) : BitVec 16 :=
  if s.flatThresh = 0 then BitVec.ofNat 16 (flatnessDetDefault s.bpc) else s.flatThresh

/-- The effect of a check that passes: the threshold's default, the derived values (of which NG is kept, being read when
the configuration has changed: 10_state.md R36, log entry 9), `cfgValid` and `res` (R413). -/
def cfgPass : Act Unit := do
  update (fun s => s.withFlatThresh (defaultThresh s))
  update (fun s => s.withNgChecked (BitVec.ofNat 12 s.ng))
  update (fun s => s.withSt { s.st with cfgValid := true })
  writeRes 1

/-- The effect of a failing check: `cfgValid` is 0 (R413, log entry 13). -/
def cfgFail (t : CfgTest) : Act Unit := do
  update (fun s => s.withSt { s.st with cfgValid := false })
  raise t.kind t.bit

/-- `CFG_CHECK` (R413). -/
def execCfgCheck (s : State) : Host.Outcome State Fault Refusal :=
  complete (do
    unlocked 0
    let t ← look (fun s => firstFailing (cfgTests s))
    match t with
    | none => cfgPass
    | some t => cfgFail t) s

end Sys2Proof.Machine
end

