-- ==== Sys2Proof/Machine/BpSearch.lean ====
section
/-! DEFINITION. The block-prediction search (40_prediction.md section 5). -/

namespace Sys2Proof.Machine

/-- `refPred(c, gs, i)` of the three pixels (R201); `cur` holds the group. -/
def refPred (s : State) (c : Cpnt) (gs : Nat) : Rd (Tri Int) := do
  let q ← mapQpToLevel s c s.masterQp
  if s.vPos = 0 then readTri (fun i => curRead s c ((gs : Int) + i.toNat - 1))
  else do
    let m ← mapBlend s c gs q
    let p0 := m.predict .i0 0 0
    let x0 ← curRead s c gs
    let r0 := x0 - p0
    let p1 := m.predict .i1 r0 0
    let x1 ← curRead s c (gs + 1)
    let r1 := x1 - p1
    .ok ⟨p0, p1, m.predict .i2 r0 r1⟩

/-- The pairs (i, c) of the n real pixels of a group, pixels first (R202). -/
def pixelPairs (n : Nat) : List (Pix × Cpnt) :=
  (Idx3.all.take n).flatMap (fun i => Idx3.all.map (fun c => (i, c)))

/-- The sum over the n real pixels and the components of the differences of `cur` from a prediction (R202). -/
def groupSad (s : State) (gs n : Nat) (p : Pix → Cpnt → Rd Int) : Rd Nat := do
  let ds ← readAll (fun (ic : Pix × Cpnt) => do
    let x ← curRead s ic.2 ((gs : Int) + ic.1.toNat)
    let y ← p ic.1 ic.2
    .ok (absNat (x - y))) (pixelPairs n)
  .ok ds.sum

/-- `newMap` (R202). -/
def bpNewMap (s : State) (gs n : Nat) : Rd Nat := do
  let refs ← readTri (fun c => refPred s c gs)
  groupSad s gs n (fun i c => .ok ((refs.get c).get i))

/-- `newBp[-v]` (R202). -/
def bpNewCost (s : State) (gs n v : Nat) : Rd Nat :=
  groupSad s gs n (fun i c => curRead s c ((gs : Int) + i.toNat - v))

/-- A cost as it is stored, saturating at 65535 (R202). -/
def bpSaturate (x : Nat) : BitVec 16 := BitVec.ofNat 16 (min x 65535)

/-- The window slots filled so far, newest first (R202). -/
def windowSeen (w : Tri BpCost) (n : Nat) : List BpCost := [w.a0, w.a1, w.a2].take n

/-- `winBp[v]` of candidate number j (R202). -/
def winBpCost (w : Tri BpCost) (n j : Nat) : Nat := ((windowSeen w n).map (fun k => (k.bp.getD j 0).toNat)).sum

/-- `winMap` (R202). -/
def winMapCost (w : Tri BpCost) (n : Nat) : Nat := ((windowSeen w n).map (fun k => k.map.toNat)).sum

/-- The first candidate of least cost: (-v, cost) (R202). -/
def bestCandidate : List (Nat × Nat) → Nat × Nat
  | [] => (0, 0)
  | [x] => x
  | x :: y :: rest =>
    let b := bestCandidate (y :: rest)
    if b.2 < x.2 then b else x

/-- An edge: a sample differs from its left neighbour by more than the threshold (R202). -/
def bpEdge (s : State) (gs n : Nat) : Rd Bool := do
  let es ← readAll (fun (ic : Pix × Cpnt) => do
    let x ← curRead s ic.2 ((gs : Int) + ic.1.toNat)
    let y ← curRead s ic.2 ((gs : Int) + ic.1.toNat - 1)
    .ok (decide (bpEdgeThresh (s.depth ic.2) < absNat (x - y)))) (pixelPairs n)
  .ok (es.any id)

/-- The candidates with their window costs, in `BP_CANDIDATES` order (R202). -/
def bpCandidateCosts (w : Tri BpCost) (n : Nat) : List (Nat × Nat) :=
  (List.range bpCandidates.length).map (fun j => (bpCandidates.getD j 0, winBpCost w n j))

/-- The search's registers after a group, from its costs and its edge (R202, R191). -/
def bpAdvance (s : State) (g : Nat) (new : BpCost) (edge : Bool) : BpRegs :=
  let b := s.bp
  let window : Tri BpCost := ⟨new, b.window.a0, b.window.a1⟩
  let seen := min bpWindowGroups (b.bpGroupsSeen.toNat + 1)
  let best := bestCandidate (bpCandidateCosts window seen)
  let beats := best.2 < winMapCost window seen
  let run := if beats then min 255 (b.bpRun.toNat + 1) else 0
  let hold := if edge then bpEdgeHold else b.edgeHold.toNat - 1
  let useBp := s.cfgFlag .blockPredEnable ∧ seen = bpWindowGroups ∧ bpMinRun ≤ run ∧ hold = 0
  { b with
    window := window
    bpGroupsSeen := BitVec.ofNat 2 seen
    edgeHold := BitVec.ofNat 8 hold
    bpRun := BitVec.ofNat 8 run
    ptypeNext := listSet .left b.ptypeNext g (if useBp then .bp else .map)
    bpVecNext := listSet 0 b.bpVecNext g (BitVec.ofNat 5 best.1) }

/-- `bpSearchGroup(gs)` (R202, R191). -/
def bpSearchGroup (s : State) (gs : Nat) : Rd BpRegs := do
  let n := realPixels s gs
  let newMap ← bpNewMap s gs n
  let newBp ← readAll (fun v => bpNewCost s gs n v) bpCandidates
  let edge ← bpEdge s gs n
  .ok (bpAdvance s (gs / 3) ⟨newBp.map bpSaturate, bpSaturate newMap⟩ edge)

end Sys2Proof.Machine
end

