-- ==== Sys2Proof/Machine/Flatness.lean ====
section
/-! DEFINITION. Flatness detection in the encoder (43_rate_control.md section 5): FLAT_DETECT. -/

namespace Sys2Proof.Machine

/-- `rng_c`: the range of the originals of a candidate group and its left neighbour (R336). -/
def flatRange (s : State) (c : Cpnt) (gsj : Nat) : Rd Int := do
  let x0 ← origRead s c ((gsj : Int) - 1)
  let x1 ← origRead s c gsj
  let x2 ← origRead s c ((gsj : Int) + 1)
  let x3 ← origRead s c ((gsj : Int) + 2)
  .ok (max x0 (max x1 (max x2 x3)) - min x0 (min x1 (min x2 x3)))

/-- `flatClass(gsj, q)` (R336). -/
def flatClass (s : State) (gsj : Nat) (qp : Int) : Rd Flatness := do
  let r ← readTri (fun c => flatRange s c gsj)
  let q ← readTri (fun c => mapQpToLevel s c qp)
  let t : Int := s.flatThresh.toNat
  let very := Idx3.all.all (fun c => decide (r.get c ≤ t))
  let somewhat := Idx3.all.all (fun c => decide (r.get c ≤ t + maxQuantErr (q.get c)))
  .ok (if very then .very else if somewhat then .somewhat else .none)

/-- `flatDetect(gs, qp)` over the positions of a list (R337). -/
def flatScan (s : State) (gs : Nat) (qp : Int) : List Nat → Rd FlatRec
  | [] => .ok FlatRec.zero
  | p :: rest =>
    if s.width ≤ gs + 12 + 3 * p then .ok FlatRec.zero
    else do
      let k ← flatClass s (gs + 12 + 3 * p) qp
      match k with
      | .none => flatScan s gs qp rest
      | .somewhat => .ok ⟨true, false, BitVec.ofNat 2 p⟩
      | .very => .ok ⟨true, true, BitVec.ofNat 2 p⟩

/-- `flatDetect(gs, qp)` (R337). -/
def flatDetect (s : State) (gs : Nat) (qp : Int) : Rd FlatRec := flatScan s gs qp [0, 1, 2, 3]

/-- The result of `FLAT_DETECT` for a record: `(1 + type) | (pos << 4)`, or 0 (R340). -/
def flatResult (f : FlatRec) : Nat := if f.valid then 1 + f.very.toNat + f.pos.toNat * 16 else 0

/-- `FLAT_DETECT` (R340). -/
def execFlatDetect (gs : Nat) (s : State) : Host.Outcome State Fault Refusal :=
  unlessFaulted (do
    encoderOnly
    demandGroupStart gs
    demand (fun s => decide (0 ≤ s.opA ∧ s.opA ≤ maxQp s.bpc)) .range (fun s => s.opA)
    let f ← sense (fun s => flatDetect s gs s.opA)
    writeRes (flatResult f)) s

end Sys2Proof.Machine
end

