-- ==== Sys2Proof/Machine/Entropy.lean ====
section
/-! DEFINITION. The entropy coder and the group commands (44_entropy.md, 30_encoding.md R150 to R156): PSIZE_ADJ,
ENC_GROUP, DEC_GROUP. -/

namespace Sys2Proof.Machine

/-! ### Sizes and prefixes -/

/-- The sizes of a unit before it is coded: `q[c]`, `M[c] = B[c] - q[c]` and `p[c]` (30_encoding.md R152). -/
structure UnitPlan where
  q : Nat
  m : Nat
  p : Nat
  deriving DecidableEq, Repr

/-- A unit as coded: its plan, whether it is an MPP unit, and its size `s[c]` (44_entropy.md R366). -/
structure UnitCode where
  plan : UnitPlan
  mpp : Bool
  s : Nat
  deriving DecidableEq, Repr

/-- `q[c]`, `M[c]` and `adjPredSize(c)` (44_entropy.md R361). -/
def unitPlan (s : State) (c : Cpnt) : Rd UnitPlan := do
  let q ← mapQpToLevel s c s.masterQp
  let q' ← mapQpToLevel s c s.size.prevPredQp.toNat
  let m := s.depth c - q
  let p := clampInt ((s.size.predictedSize.get c).toNat + q' - q) 0 ((m : Int) - 1)
  .ok ⟨q, m, p.toNat⟩

/-- `vmax` of a component's prefix: luma has one value more, the escape (30_encoding.md R152). -/
def prefixMax (c : Cpnt) (u : UnitPlan) : Nat := if c = .i0 then u.m - u.p + 1 else u.m - u.p

/-- `v` of a normal or MPP unit of size `s`; `l` is the previous group's ICH flag (30_encoding.md R152). -/
def prefixValue (c : Cpnt) (l : Bool) (u : UnitPlan) (s : Nat) : Nat := if c = .i0 then s - u.p + l.toNat else s - u.p

/-- `v` of the ICH escape (30_encoding.md R152). -/
def escapeValue (l : Bool) (u : UnitPlan) : Nat := if l then 0 else prefixMax .i0 u

/-- A luma prefix value that denotes the ICH escape (30_encoding.md R153). -/
def isEscape (l : Bool) (u : UnitPlan) (v : Nat) : Bool := if l then v == 0 else v == prefixMax .i0 u

/-- The size a prefix value denotes (30_encoding.md R153). -/
def sizeOfPrefix (c : Cpnt) (l : Bool) (u : UnitPlan) (v : Nat) : Nat :=
  if c = .i0 then u.p + v - l.toNat else u.p + v

/-- The command `PSIZE_ADJ` (44_entropy.md R362). -/
def execPsizeAdj (c : Cpnt) (s : State) : Host.Outcome State Fault Refusal :=
  unlessFaulted (do
    needsSlice
    let u ← sense (fun s => unitPlan s c)
    writeRes u.p) s

/-! ### Reconstruction, both directions -/

/-- `normPred(c, gs, i, q, R0, R1)` (44_entropy.md R363, 40_prediction.md R181). -/
def normPred (s : State) (c : Cpnt) (gs : Nat) (i : Pix) (q : Nat) (r0 r1 : Int) : Rd Int :=
  if s.vPos = 0 then leftPred s c (gs + i.toNat)
  else
    match s.bp.ptypeCur.getD (gs / 3) .left with
    | .bp => bpPred s c (gs + i.toNat) (s.bp.bpVecCur.getD (gs / 3) 0).toNat
    | _ => mapPred s c gs i q r0 r1

/-- Reconstruct pixel i of a unit from its prediction and residual: `cur`, `pred` and `qres` (44_entropy.md R364, R365,
R375). -/
def writePixel (c : Cpnt) (gs : Nat) (i : Pix) (q : Nat) (p e : Int) : Act Unit :=
  update (fun s => (s.setCur c (gs + i.toNat) (reconSample s c p (dequantize e q))).setScratch c i p e)

/-! ### Encoder units -/

/-- One pixel of `normalUnit`: predict, quantize and reconstruct; the residual is answered (44_entropy.md R364). -/
def normalPixel (c : Cpnt) (gs : Nat) (q : Nat) (i : Pix) (r0 r1 : Int) : Act Int := do
  let p ← sense (fun s => normPred s c gs i q r0 r1)
  let o ← sense (fun s => origRead s c (gs + i.toNat))
  let e := quantize (o - p) q
  writePixel c gs i q p e
  pure e

/-- `normalUnit(c, gs)` (44_entropy.md R364). -/
def normalUnit (c : Cpnt) (gs q : Nat) : Act (Tri Int) := do
  let e0 ← normalPixel c gs q .i0 0 0
  let e1 ← normalPixel c gs q .i1 (dequantize e0 q) 0
  let e2 ← normalPixel c gs q .i2 (dequantize e0 q) (dequantize e1 q)
  pure ⟨e0, e1, e2⟩

/-- The MPP residual of an error: quantized and held to M bits (40_prediction.md R192). -/
def mppResidual (e : Int) (q m : Nat) : Int := clampInt (quantize e q) (-2 ^ (m - 1)) (2 ^ (m - 1) - 1)

/-- One pixel of `mppUnit` (44_entropy.md R365, 40_prediction.md R192). -/
def mppPixel (c : Cpnt) (gs : Nat) (u : UnitPlan) (mid : Int) (i : Pix) : Act Unit := do
  let o ← sense (fun s => origRead s c (gs + i.toNat))
  writePixel c gs i u.q mid (mppResidual (o - mid) u.q u.m)

/-- `mppUnit(c, gs)` (44_entropy.md R365). -/
def mppUnit (c : Cpnt) (gs : Nat) (u : UnitPlan) : Act Unit := do
  let mid ← sense (fun s => midpointOf s c gs u.q)
  forAll (mppPixel c gs u mid) Idx3.all

/-- A unit of the encoder: its kind and size (44_entropy.md R366, 41_quantizer.md R239). -/
def encUnit (c : Cpnt) (gs : Nat) : Act UnitCode := do
  let u ← sense (fun s => unitPlan s c)
  let e ← normalUnit c gs u.q
  let req := min u.m (residualSize3 e)
  let forced ← look (fun s => s.mode.forceMpp)
  if forced = true ∨ u.m ≤ req then do
    mppUnit c gs u
    pure ⟨u, true, u.m⟩
  else pure ⟨u, false, max req u.p⟩

/-! ### The ICH decision -/

/-- The weighted error of pixel i against a triple (44_entropy.md R367, R368). -/
def pixelErr (s : State) (i : Int) (v : Tri Int) : Rd Nat := do
  let o ← readTri (fun c => origRead s c i)
  .ok (weightedSad ⟨absNat (o.a0 - v.a0), absNat (o.a1 - v.a1), absNat (o.a2 - v.a2)⟩)

/-- The sum of the three pixels' weighted errors. -/
def groupErr (s : State) (gs : Nat) (v : Pix → Rd (Tri Int)) : Rd Nat := do
  let es ← readTri (fun i => do
    let t ← v i
    pixelErr s ((gs : Int) + i.toNat) t)
  .ok (es.a0 + es.a1 + es.a2)

/-- A coding cost: bits and the weighted log of the error (44_entropy.md R367, R368). -/
def codingCost (bits err : Nat) : Nat := bits + ichLogerrWeight * ceilLog2 (err + 1)

/-- The bits of one unit (44_entropy.md R367). -/
def unitBits (c : Cpnt) (l : Bool) (u : UnitCode) : Nat :=
  unaryLen (prefixValue c l u.plan u.s) (prefixMax c u.plan) + 3 * u.s

/-- `costN` (44_entropy.md R367). -/
def normalCost (s : State) (gs : Nat) (us : Tri UnitCode) : Rd Nat := do
  let l := s.mode.ichSelected
  let err ← groupErr s gs (fun i => readTri (fun c => curRead s c ((gs : Int) + i.toNat)))
  .ok (codingCost (unitBits .i0 l us.a0 + unitBits .i1 l us.a1 + unitBits .i2 l us.a2) err)

/-- The value of an entry for all components. -/
def historyTriple (s : State) (k gs : Nat) : Rd (Tri Int) := readTri (fun c => historyLookup s k c gs)

/-- `costI` (44_entropy.md R368). -/
def ichCost (s : State) (gs : Nat) (u : UnitPlan) (ks : Tri Nat) : Rd Nat := do
  let l := s.mode.ichSelected
  let err ← groupErr s gs (fun i => historyTriple s (ks.get i) gs)
  .ok (codingCost (unaryLen (escapeValue l u) (prefixMax .i0 u) + 3 * ichIndexBits) err)

/-- The indices of an ICH group, if the group is to be one (44_entropy.md R368). -/
def ichDecision (s : State) (gs : Nat) (us : Tri UnitCode) : Rd (Option (Tri Nat)) :=
  if s.mode.forceMpp then .ok none
  else do
    let ok ← isOrigWithinQuantError s gs
    if ok = false then .ok none
    else do
      let ks ← readTri (fun i => pickBestHistoryValue s (gs + i.toNat))
      match ks.a0, ks.a1, ks.a2 with
      | some k0, some k1, some k2 => do
        let costN ← normalCost s gs us
        let costI ← ichCost s gs us.a0.plan ⟨k0, k1, k2⟩
        .ok (if costI < costN then some ⟨k0, k1, k2⟩ else none)
      | _, _, _ => .ok none

/-! ### Emission and reading -/

/-- The flatness fields are present (30_encoding.md R151 rows 1 to 3). -/
def flatFieldsPresent (s : State) : Bool :=
  decide (s.cfg .flatnessMinQp ≤ s.masterQp ∧ s.masterQp ≤ s.cfg .flatnessMaxQp)

/-- Write `flatNext`. -/
def State.setFlatNext (s : State) (f : FlatRec) : State := s.withFlat { s.flat with flatNext := f }

/-- Send the flatness fields (44_entropy.md R370 step 1, 30_encoding.md R151). -/
def putFlatFields (f : FlatRec) : Act Nat := do
  let n ← putBits .i0 1 f.valid.toNat
  if f.valid = true then do
    let a ← putBits .i0 2 f.pos.toNat
    let b ← putBits .i0 1 f.very.toNat
    pure (n + a + b)
  else pure n

/-- Step 1 of the encoder: the bits sent (44_entropy.md R370). -/
def encFlat (gs : Nat) : Act Nat := do
  let first ← look (fun s => decide (s.flat.sgPos = 0))
  if first = true then do
    let present ← look flatFieldsPresent
    if present = true then do
      let f ← sense (fun s => flatDetect s gs s.masterQp)
      let n ← putFlatFields f
      update (fun s => s.setFlatNext f)
      pure n
    else do
      update (fun s => s.setFlatNext FlatRec.zero)
      pure 0
  else pure 0

/-- Read the flatness fields: the record and the bits read (44_entropy.md R375 step 1). -/
def getFlatFields : Act (FlatRec × Nat) := do
  let flag ← getBits .i0 1
  if flag = 1 then do
    let pos ← getBits .i0 2
    let ty ← getBits .i0 1
    pure (⟨true, ty == 1, BitVec.ofNat 2 pos⟩, 4)
  else pure (FlatRec.zero, 1)

/-- Step 1 of the decoder: the bits read (44_entropy.md R375). -/
def decFlat : Act Nat := do
  let first ← look (fun s => decide (s.flat.sgPos = 0))
  if first = true then do
    let present ← look flatFieldsPresent
    if present = true then do
      let f ← getFlatFields
      update (fun s => s.setFlatNext f.1)
      pure f.2
    else do
      update (fun s => s.setFlatNext FlatRec.zero)
      pure 0
  else pure 0

/-- Send one residual: the s low bits of its two's complement (30_encoding.md R154). -/
def putResidual (c : Cpnt) (n : Nat) (i : Pix) : Act Nat := do
  let e ← look (fun s => ((s.scratch.qres.get c).get i).toInt)
  putBits c n (e % 2 ^ n).toNat

/-- Send one unit: its prefix and its three residuals (44_entropy.md R370 step 4). -/
def putUnit (l : Bool) (c : Cpnt) (u : UnitCode) : Act Nat := do
  let n ← putList c (unaryBits (prefixValue c l u.plan u.s) (prefixMax c u.plan))
  let a ← putResidual c u.s .i0
  let b ← putResidual c u.s .i1
  let d ← putResidual c u.s .i2
  pure (n + a + b + d)

/-- `ichIdx[i] <- k`. -/
def State.setIchIdx (s : State) (i : Pix) (k : Nat) : State :=
  s.withMode { s.mode with ichIdx := s.mode.ichIdx.set i (BitVec.ofNat 5 k) }

/-- One component of one pixel of an ICH group: `cur <- historyLookup` (42_ich.md R275). -/
def ichRecon (gs : Nat) (ks : Tri Nat) (i : Pix) (c : Cpnt) : Act Unit := do
  let v ← sense (fun s => historyLookup s (ks.get i) c gs)
  update (fun s => s.setCur c (gs + i.toNat) v)

/-- `pred` holds the ICH value and `qres` is 0 (44_entropy.md R370, R375). -/
def ichScratch (gs : Nat) (i : Pix) (c : Cpnt) : Act Unit := do
  let v ← sense (fun s => curRead s c ((gs : Int) + i.toNat))
  update (fun s => s.setScratch c i v 0)

/-- The reconstruction and the scratch of an ICH group, pixels first (44_entropy.md R370, R375). -/
def ichGroup (gs : Nat) (ks : Tri Nat) : Act Unit := do
  forAll (fun (ic : Pix × Cpnt) => ichRecon gs ks ic.1 ic.2) (pixelPairs 3)
  forAll (fun (ic : Pix × Cpnt) => ichScratch gs ic.1 ic.2) (pixelPairs 3)

/-- Send one ICH index (30_encoding.md R155). -/
def putIchIdx (ks : Tri Nat) (i : Pix) : Act Nat := do
  let n ← putBits ichIndexSubstream ichIndexBits (ks.get i)
  update (fun s => s.setIchIdx i (ks.get i))
  pure n

/-- Send an ICH group (44_entropy.md R370 step 4). -/
def putIchGroup (gs : Nat) (l : Bool) (u : UnitPlan) (ks : Tri Nat) : Act Nat := do
  let n ← putList .i0 (unaryBits (escapeValue l u) (prefixMax .i0 u))
  let a ← putIchIdx ks .i0
  let b ← putIchIdx ks .i1
  let d ← putIchIdx ks .i2
  ichGroup gs ks
  pure (n + a + b + d)

/-- Read one ICH index; one that names no valid entry raises `F_BITSTREAM` (42_ich.md R275, 44_entropy.md R375). -/
def getIchIdx (i : Pix) : Act Nat := do
  let k ← getBits ichIndexSubstream ichIndexBits
  demand (fun s => ichValidAt s k) .bitstream (fun _ => k)
  update (fun s => s.setIchIdx i k)
  pure k

/-- Read an ICH group: the bits read after the prefix (44_entropy.md R375 step 3a). -/
def getIchGroup (gs : Nat) : Act Nat := do
  let k0 ← getIchIdx .i0
  let k1 ← getIchIdx .i1
  let k2 ← getIchIdx .i2
  ichGroup gs ⟨k0, k1, k2⟩
  pure (3 * ichIndexBits)

/-- Read one residual of s bits; a size of 0 reads nothing (44_entropy.md R375). -/
def getResidual (c : Cpnt) (n : Nat) : Act Int := do
  let v ← getBits c n
  pure (sext n v)

/-- One pixel of a normal unit of the decoder (44_entropy.md R375 step 3b). -/
def decPixel (c : Cpnt) (gs q : Nat) (i : Pix) (r0 r1 e : Int) : Act Unit := do
  let p ← sense (fun s => normPred s c gs i q r0 r1)
  writePixel c gs i q p e

/-- The reconstruction of a unit of the decoder (44_entropy.md R375 step 3b). -/
def decRecon (c : Cpnt) (gs : Nat) (u : UnitCode) (e : Tri Int) : Act Unit :=
  if u.mpp then do
    let mid ← sense (fun s => midpointOf s c gs u.plan.q)
    forAll (fun i => writePixel c gs i u.plan.q mid (e.get i)) Idx3.all
  else do
    decPixel c gs u.plan.q .i0 0 0 e.a0
    decPixel c gs u.plan.q .i1 (dequantize e.a0 u.plan.q) 0 e.a1
    decPixel c gs u.plan.q .i2 (dequantize e.a0 u.plan.q) (dequantize e.a1 u.plan.q) e.a2

/-- Read the residuals of a unit whose prefix value is known, and reconstruct it (44_entropy.md R375 step 3b). -/
def decUnit (c : Cpnt) (gs : Nat) (l : Bool) (u : UnitPlan) (v : Nat) : Act UnitCode := do
  let n := sizeOfPrefix c l u v
  let e0 ← getResidual c n
  let e1 ← getResidual c n
  let e2 ← getResidual c n
  let code : UnitCode := ⟨u, n == u.m, n⟩
  decRecon c gs code ⟨e0, e1, e2⟩
  pure code

/-- Read a chroma unit, prefix first (44_entropy.md R375 step 3b). -/
def decChroma (c : Cpnt) (gs : Nat) (l : Bool) (u : UnitPlan) : Act UnitCode := do
  let v ← getUnary c (prefixMax c u)
  decUnit c gs l u v

/-! ### Bookkeeping, both directions -/

/-- What a group was coded as: an ICH group, or three units. -/
inductive GroupCode where
  | ich
  | units (us : Tri UnitCode)
  deriving DecidableEq, Repr

/-- `ichSelected` of a group. -/
def GroupCode.isIch : GroupCode → Bool
  | .ich => true
  | .units _ => false

/-- The required size of a unit, recomputed from its coded residuals (44_entropy.md R377). -/
def feedbackSize (s : State) (c : Cpnt) (u : UnitCode) : Nat :=
  let e := s.scratch.qres.get c
  if u.mpp then u.plan.m else residualSize3 ⟨e.a0.toInt, e.a1.toInt, e.a2.toInt⟩

/-- The size registers after a group (44_entropy.md R377). -/
def sizesAfter (s : State) : GroupCode → SizeRegs
  | .ich => { s.size with sizeUsed := Tri.fill 0, mppUsed := Tri.fill false, rcSizeGroup := 0 }
  | .units us =>
    { s.size with
      sizeUsed := ⟨BitVec.ofNat 5 us.a0.s, BitVec.ofNat 5 us.a1.s, BitVec.ofNat 5 us.a2.s⟩
      mppUsed := ⟨us.a0.mpp, us.a1.mpp, us.a2.mpp⟩
      predictedSize :=
        ⟨BitVec.ofNat 5 (feedbackSize s .i0 us.a0), BitVec.ofNat 5 (feedbackSize s .i1 us.a1),
          BitVec.ofNat 5 (feedbackSize s .i2 us.a2)⟩
      prevPredQp := s.qp.masterQp
      rcSizeGroup := BitVec.ofNat 16 (3 * us.a0.s + 3 * us.a1.s + 3 * us.a2.s) }

/-- Size bookkeeping (44_entropy.md R377). -/
def groupSizes (bits : Nat) (g : GroupCode) : Act Unit := do
  update (fun s => s.withMode { s.mode with prevIchSelected := s.mode.ichSelected, ichSelected := g.isIch })
  demand (fun _ => decide (bits ≤ 65535)) .range (fun _ => bits)
  update (fun s => s.withSize { s.size with codedGroupSize := BitVec.ofNat 16 bits })
  let n ← look (fun s => s.pos.codedBitsTotal.toNat + bits)
  let n' ← fitU 32 0x0306 n
  update (fun s => s.withPos { s.pos with codedBitsTotal := n' })
  update (fun s => s.withSize (sizesAfter s g))

/-- The position registers after a group (44_entropy.md R378). -/
def groupAdvance (gs : Nat) : Act Unit := do
  update (fun s => s.withFlat { s.flat with sgPos := s.flat.sgPos + 1 })
  let n ← look (fun s => s.pos.groupCount.toNat + 1)
  let n' ← fitU 32 0x0304 n
  update (fun s => s.withPos { s.pos with groupCount := n' })
  let h' ← fitU 16 0x0302 (gs + 3)
  update (fun s => s.withPos { s.pos with hPos := h' })
  let k ← look (fun s => s.pos.groupInLine.toNat + 1)
  let k' ← fitU 16 0x0303 k
  update (fun s => s.withPos { s.pos with groupInLine := k' })
  update (fun s => s.withMode { s.mode with groupPending := true })

/-- Position and cache bookkeeping (44_entropy.md R378). -/
def groupBookkeeping (gs : Nat) (g : GroupCode) : Act Unit := do
  ichUpdateGroup gs g.isIch
  let b ← sense (fun s => bpSearchGroup s gs)
  update (fun s => s.withBp b)
  groupAdvance gs

/-- Step 5 of a group command: bookkeeping and result (44_entropy.md R370, R375, R377, R378). -/
def finishGroup (gs bits : Nat) (g : GroupCode) : Act Unit := do
  groupSizes bits g
  groupBookkeeping gs g
  writeRes bits

/-! ### The group commands -/

/-- A group command needs an open line with a group left and no group pending (44_entropy.md R370). -/
def groupReady : Act Unit :=
  demand (fun s => s.mode.lineOpen && !s.mode.groupPending && decide (s.hPos < s.width)) .sequence (fun _ => 0)

/-- Step 4 of the encoder: the bits sent and what the group was coded as (44_entropy.md R370). -/
def encEmit (gs : Nat) (us : Tri UnitCode) : Option (Tri Nat) → Act (Nat × GroupCode)
  | some ks => do
    let l ← look (fun s => s.mode.ichSelected)
    let n ← putIchGroup gs l us.a0.plan ks
    pure (n, .ich)
  | none => do
    let l ← look (fun s => s.mode.ichSelected)
    let n0 ← putUnit l .i0 us.a0
    let n1 ← putUnit l .i1 us.a1
    let n2 ← putUnit l .i2 us.a2
    pure (n0 + n1 + n2, .units us)

/-- The group at gs, encoded (44_entropy.md R370). -/
def encodeGroup (gs : Nat) : Act Unit := do
  let nf ← encFlat gs
  let u0 ← encUnit .i0 gs
  let u1 ← encUnit .i1 gs
  let u2 ← encUnit .i2 gs
  let d ← sense (fun s => ichDecision s gs ⟨u0, u1, u2⟩)
  let r ← encEmit gs ⟨u0, u1, u2⟩ d
  finishGroup gs (nf + r.1) r.2

/-- `ENC_GROUP` (44_entropy.md R370). -/
def execEncGroup (s : State) : Host.Outcome State Fault Refusal :=
  unlessFaulted (do
    encoderOnly
    groupReady
    let gs ← look (fun s => s.hPos)
    encodeGroup gs) s

/-- Steps 2 and 3 of the decoder: the bits read and what the group was coded as (44_entropy.md R375). -/
def decRead (gs : Nat) (us : Tri UnitPlan) : Act (Nat × GroupCode) := do
  let l ← look (fun s => s.mode.ichSelected)
  let v0 ← getUnary .i0 (prefixMax .i0 us.a0)
  let n0 := unaryLen v0 (prefixMax .i0 us.a0)
  if isEscape l us.a0 v0 = true then do
    let n ← getIchGroup gs
    pure (n0 + n, .ich)
  else do
    let u0 ← decUnit .i0 gs l us.a0 v0
    let u1 ← decChroma .i1 gs l us.a1
    let u2 ← decChroma .i2 gs l us.a2
    pure (unitBits .i0 l u0 + unitBits .i1 l u1 + unitBits .i2 l u2, .units ⟨u0, u1, u2⟩)

/-- The group at gs, decoded (44_entropy.md R375). -/
def decodeGroup (gs : Nat) : Act Unit := do
  let nf ← decFlat
  let us ← sense (fun s => readTri (fun c => unitPlan s c))
  let r ← decRead gs us
  finishGroup gs (nf + r.1) r.2

/-- `DEC_GROUP` (44_entropy.md R375). -/
def execDecGroup (s : State) : Host.Outcome State Fault Refusal :=
  unlessFaulted (do
    decoderOnly
    groupReady
    let gs ← look (fun s => s.hPos)
    decodeGroup gs) s

end Sys2Proof.Machine
end

