-- ==== Sys2Proof/Machine/RateControl.lean ====
section
/-! DEFINITION. The virtual buffer and rate control (43_rate_control.md sections 1 to 4): RC_UPDATE, its ten steps one
definition each, in the order of R300. -/

namespace Sys2Proof.Machine

/-- The start of the group that the last group command coded (log entry 17). -/
def codedGroupStart (s : State) : Nat := s.hPos - 3

/-- The real pixels of the group just coded (R306). -/
def codedPixels (s : State) : Nat := realPixels s (codedGroupStart s)

/-- Step 1: add the group's bits (R305). -/
def rcAdd : Act Unit := do
  let f ← look (fun s => s.fullness + s.size.codedGroupSize.toNat)
  let f' ← fitS 0x0320 f
  update (fun s => s.withBuf { s.buf with bufferFullness := f' })
  let n ← look (fun s => s.buf.numBitsChunk.toInt + s.size.codedGroupSize.toNat)
  let n' ← fitS 0x0324 n
  update (fun s => s.withBuf { s.buf with numBitsChunk := n' })

/-- The removal of one pixel-time after the delay: the fraction accumulates in sixteenths and carries (R306). The
pixel-time is counted in its chunk (10_state.md R42, log entry 7). -/
def rcRemoveBits : Act Unit := do
  let frac ← look (fun s => s.buf.bpgFracAccum.toNat + s.cfg .bitsPerPixel % 16)
  let f ← look (fun s => s.fullness - (s.cfg .bitsPerPixel / 16 : Nat) - (frac / 16 : Nat))
  let f' ← fitS 0x0320 f
  let k ← look (fun s => s.buf.chunkPixelCount.toNat + 1)
  let k' ← fitU 32 0x0323 k
  update (fun s =>
    s.withBuf
      { s.buf with
        removalStarted := true
        bufferFullness := f'
        bpgFracAccum := BitVec.ofNat 4 (frac % 16)
        chunkPixelCount := k' })

/-- One pixel-time of step 2 (R306). -/
def rcPixelTime : Act Unit := do
  let n ← look (fun s => s.pos.pixelCount.toNat + 1)
  let n' ← fitU 32 0x0305 n
  update (fun s => s.withPos { s.pos with pixelCount := n' })
  let elapsed ← look (fun s => decide (s.cfg .initialXmitDelay < s.pos.pixelCount.toNat))
  if elapsed = true then rcRemoveBits else pure ()

/-- Step 2: remove bits for the group's pixel-times (R306). -/
def rcRemove : Act Unit := do
  let n ← look codedPixels
  times rcPixelTime n

/-- VBR absorbs a negative fullness (R307). -/
def rcClampFullness : Act Unit := do
  let k ← look (fun s => s.buf.clampedBits.toNat - s.fullness)
  let k' ← fitU 32 0x0325 k
  update (fun s => s.withBuf { s.buf with clampedBits := k', bufferFullness := 0 })

/-- Step 3: the bounds (R307). -/
def rcBounds : Act Unit := do
  demand (fun s => decide (s.fullness ≤ s.rcbBits)) .bufOverflow (fun s => s.fullness)
  let negative ← look (fun s => decide (s.fullness < 0))
  if negative = true then do
    demand (fun s => s.cfgFlag .vbrEnable) .bufUnderflow (fun s => s.fullness)
    rcClampFullness
  else pure ()

/-- A CBR chunk: subtract the fixed budget (R309). -/
def rcChunkCbr : Act Unit := do
  let n ← look (fun s => s.buf.numBitsChunk.toInt - 8 * s.cfg .chunkSize)
  let n' ← fitS 0x0324 n
  update (fun s => s.withBuf { s.buf with numBitsChunk := n' })

/-- A VBR chunk: emit its bytes and absorb the padding; more than 65535 bytes raise `F_BUF_OVERFLOW` (R309). -/
def rcChunkVbr : Act Unit := do
  let bytes ← look (fun s => shr (s.buf.numBitsChunk.toInt + 7) 3)
  demand (fun _ => decide (bytes ≤ 65535)) .bufOverflow (fun _ => bytes)
  update (fun s => s.withIo { s.io with chunkOut := s.io.chunkOut ++ [BitVec.ofInt 16 bytes] })
  let k ← look (fun s => s.buf.clampedBits.toNat + (8 * bytes - s.buf.numBitsChunk.toInt))
  let k' ← fitU 32 0x0325 k
  update (fun s => s.withBuf { s.buf with clampedBits := k', numBitsChunk := 0 })

/-- Step 4: close the chunk at the last group of a line (R309); the next chunk counts its pixel-times from 0
(10_state.md R42, log entry 7). -/
def rcChunk : Act Unit := do
  let last ← look (fun s => decide (s.width ≤ codedGroupStart s + 3))
  if last = true then do
    let vbr ← look (fun s => s.cfgFlag .vbrEnable)
    if vbr = true then rcChunkVbr else rcChunkCbr
    let k ← look (fun s => s.buf.chunkIndex.toNat + 1)
    let k' ← fitU 32 0x0326 k
    update (fun s => s.withBuf { s.buf with chunkIndex := k', chunkPixelCount := 0 })
  else pure ()

/-- The model offset after step 5, in `OFFSET_FRAC_BITS` fraction bits (R310). -/
def rcNextOffset (s : State) : Int :=
  s.rc.rcXformOffsetFx.toInt
    - (if s.pos.pixelCount.toNat ≤ s.cfg .initialXmitDelay then
        codedPixels s * s.cfg .bitsPerPixel * 2 ^ (offsetFracBits - 4)
      else 0 : Nat)
    + s.cfg .sliceBpgOffset
    + (if 1 ≤ s.vPos then s.cfg .nflBpgOffset else 0 : Nat)

/-- `offsetInt` (R310). -/
def offsetInt (s : State) : Int := shr s.rc.rcXformOffsetFx.toInt offsetFracBits

/-- The zero-crossing condition, once met, stays met (R310). -/
def rcZeroCrossed (s : State) : Bool :=
  s.rc.scaleIncrementStart ||
    decide (1 ≤ s.vPos ∧ 0 < offsetInt s + s.cfg .rcModelSize - s.cfg .finalOffset)

/-- A count of groups against an interval: the next count, and whether the interval ended (R310). -/
def intervalTick (count interval : Nat) : Nat × Bool := if interval ≤ count + 1 then (0, true) else (count + 1, false)

/-- The scale and its counters after step 5 (R310). -/
def rcNextScale (s : State) : RcRegs :=
  let r := s.rc
  if r.scaleIncrementStart = false then
    if s.cfg .scaleDecrementInterval ≠ 0 ∧ 2 ^ rcScaleFracBits < r.rcXformScale.toNat then
      let t := intervalTick r.scaleDecCount.toNat (s.cfg .scaleDecrementInterval)
      { r with
        scaleDecCount := BitVec.ofNat 16 t.1
        rcXformScale := if t.2 then r.rcXformScale - 1 else r.rcXformScale }
    else r
  else if s.cfg .scaleIncrementInterval ≠ 0 then
    let t := intervalTick r.scaleIncCount.toNat (s.cfg .scaleIncrementInterval)
    { r with
      scaleIncCount := BitVec.ofNat 16 t.1
      rcXformScale := if t.2 then BitVec.ofNat 6 (min 63 (r.rcXformScale.toNat + 1)) else r.rcXformScale }
  else r

/-- Step 5: the model transform's offset and scale (R310). -/
def rcTransform : Act Unit := do
  let o ← look rcNextOffset
  let o' ← fitS 0x0331 o
  update (fun s => s.withRc { s.rc with rcXformOffsetFx := o' })
  update (fun s => s.withRc { s.rc with scaleIncrementStart := rcZeroCrossed s })
  update (fun s => s.withRc (rcNextScale s))

/-- Steps 6a and 6b: the transformed fullness, which must be negative (R311, R312). -/
def rcModel : Act Unit := do
  let m ← look (fun s => shr (s.rc.rcXformScale.toNat * (s.fullness + offsetInt s)) rcScaleFracBits)
  let m' ← fitS 0x0335 m
  update (fun s => s.withRc { s.rc with rcModelFullness := m' })
  demand (fun s => decide (s.rc.rcModelFullness.toInt < 0)) .rcModelOverflow (fun s => s.rc.rcModelFullness.toInt)

/-- The first range, from range j down, whose lower threshold the model fullness exceeds (R313). -/
def rangeBelow (s : State) (model : Int) : Nat → Nat
  | 0 => 0
  | j + 1 => if (s.threshBits j : Int) - s.cfg .rcModelSize < model then j + 1 else rangeBelow s model j

/-- Step 6c: the range (R313). -/
def rcSelectRange : Act Unit :=
  update (fun s => s.withRc { s.rc with rcRange := BitVec.ofNat 4 (rangeBelow s s.rc.rcModelFullness.toInt 14) })

/-- `FLAT_TGT_OFS`, 0 for every flatness (00_scope.md R9, D32). -/
def flatTgtOfs : Flatness → Int
  | .none => 0
  | .somewhat => 0
  | .very => 0

/-- Step 7: the target (R315). -/
def rcTarget : Act Unit :=
  update (fun s =>
    s.withRc
      { s.rc with
        rcTgtBitsGroup :=
          BitVec.ofInt 32
            (((s.cfg .bitsPerPixel * 3 + 8) / 16 : Nat) + s.bpgOfs s.rc.rcRange.toNat
              + (if s.vPos = 0 then s.cfg .firstLineBpgOfs else 0 : Nat) + flatTgtOfs s.flat.flatThisGroup) })

/-- `predGroupSize` (R316). -/
def predGroupSize (s : State) : Nat :=
  (1 + 3 * s.size.predictedSize.a0.toNat) + (1 + 3 * s.size.predictedSize.a1.toNat)
    + (1 + 3 * s.size.predictedSize.a2.toNat)

/-- The QP increment of the third branch of step 8 (R320). -/
def rcIncrement (s : State) : Int :=
  let base := max 1 (shr (s.size.codedGroupSize.toNat - s.rc.rcTgtBitsGroup.toInt) 1)
  if s.masterQp = s.qp.prevQp.toNat then
    if s.size.rcSizeGroup.toNat * 2 < s.size.rcSizeGroupPrev.toNat * s.cfg .rcEdgeFactor then
      min base (s.cfg .rcQuantIncrLimit0)
    else min base (s.cfg .rcQuantIncrLimit1)
  else min base (s.cfg .rcQuantIncrLimit1)

/-- Step 8: `stQp` by the first of the four branches that matches (R320). -/
def rcQp (s : State) : Int :=
  let r := s.rc.rcRange.toNat
  let qp : Int := s.masterQp
  let minQ : Int := s.cfg (.rangeMinQp r)
  let maxQ : Int := s.cfg (.rangeMaxQp r)
  let tgt := s.rc.rcTgtBitsGroup.toInt
  let coded : Int := s.size.codedGroupSize.toNat
  if s.size.mppUsed.a0 && s.size.mppUsed.a1 && s.size.mppUsed.a2 then
    min maxQ (max (shr minQ 1) (max (qp - 2) 0))
  else if coded < tgt - s.cfg .rcTgtOffsetLo ∧ (predGroupSize s : Int) < tgt - s.cfg .rcTgtOffsetLo then
    clampInt (qp - 1) minQ maxQ
  else if rcFullMin ≤ s.fullness ∧ tgt + s.cfg .rcTgtOffsetHi < coded then
    min (max qp minQ + rcIncrement s) maxQ
  else clampInt qp minQ maxQ

/-- The supergroup shift of step 9 (R325). -/
def flatShift (f : FlatRegs) : FlatRegs :=
  if f.sgPos = 0 then { f with flatCur := f.flatNext, flatNext := FlatRec.zero } else f

/-- The flatness that applies to the next group (R325). -/
def flatnessOf (f : FlatRegs) : Flatness :=
  if f.flatCur.valid = true ∧ f.flatCur.pos = f.sgPos then
    if f.flatCur.very then .very else .somewhat
  else .none

/-- The override of step 9 (R325). -/
def flatOverride (s : State) (stQp : Int) : Int :=
  if s.masterQp < s.cfg (.rangeMaxQp 14) then
    match s.flat.flatThisGroup with
    | .none => stQp
    | .somewhat => max (stQp - flatSomewhatStep) 0
    | .very => flatVeryQp s.bpc
  else stQp

/-- Steps 8 and 9 and the commit (R320, R325, R326). -/
def rcCommitQp : Act Unit := do
  let q ← look rcQp
  update (fun s => s.withFlat (flatShift s.flat))
  update (fun s => s.withFlat { s.flat with flatThisGroup := flatnessOf s.flat })
  let q' ← look (fun s => flatOverride s q)
  update (fun s => s.withQp { prevQp := s.qp.masterQp, masterQp := BitVec.ofInt 5 q' })
  update (fun s => s.withSize { s.size with rcSizeGroupPrev := s.size.rcSizeGroup })

/-- `forceMpp` of step 10 (R327). -/
def mppForced (s : State) : Bool :=
  !s.cfgFlag .vbrEnable && s.buf.removalStarted &&
    decide (s.fullness < ((s.cfg .bitsPerPixel * 3 + 15) / 16 : Nat))

/-- Step 10 (R327). -/
def rcForce : Act Unit := update (fun s => s.withMode { s.mode with forceMpp := mppForced s })

/-- `groupPending <- 0; res <- masterQp` (R330). -/
def rcFinish : Act Unit := do
  update (fun s => s.withMode { s.mode with groupPending := false })
  let q ← look (fun s => s.masterQp)
  writeRes q

/-- `RC_UPDATE` (R330): it needs a group command since the last one. -/
def execRcUpdate (s : State) : Host.Outcome State Fault Refusal :=
  unlessFaulted (do
    needsSlice
    demand (fun s => s.mode.groupPending) .sequence (fun _ => 0)
    rcAdd
    rcRemove
    rcBounds
    rcChunk
    rcTransform
    rcModel
    rcSelectRange
    rcTarget
    rcCommitQp
    rcForce
    rcFinish) s

end Sys2Proof.Machine
end

