-- ==== Sys2Proof/Machine/Sequencing.lean ====
section
/-! DEFINITION. Slice and line commands (45_sequencing.md section 2, 70_reset_and_hazards.md R484): SLICE_START,
LINE_START, LINE_END. -/

namespace Sys2Proof.Machine

/-- The codec registers at slice start (70_reset_and_hazards.md R484, the "slice start" columns of 10_state.md). -/
def State.sliceRegs (s : State) : State :=
  { s with
    pos := ⟨0, 0, 0, 0, 0, 0⟩
    qp := ⟨0, 0⟩
    buf := ⟨0, 0, false, 0, 0, 0, 0⟩
    rc :=
      { rcXformScale := BitVec.ofNat 6 (s.cfg .initialScaleValue)
        rcXformOffsetFx :=
          BitVec.ofInt 32 (((s.cfg .initialOffset : Int) - s.cfg .rcModelSize) * 2 ^ offsetFracBits)
        scaleDecCount := 0
        scaleIncCount := 0
        scaleIncrementStart := false
        rcModelFullness := BitVec.ofInt 32 (-(s.cfg .rcModelSize : Int))
        rcRange := 0
        rcTgtBitsGroup := 0 }
    size := ⟨0, 0, 0, Tri.fill 0, 0, Tri.fill 0, Tri.fill false⟩
    mode := ⟨false, false, false, Tri.fill 0, false, false⟩
    flat := ⟨FlatRec.zero, FlatRec.zero, 0, Flatness.none⟩
    scratch := ⟨Tri.fill (Tri.fill 0), Tri.fill (Tri.fill 0)⟩ }

/-- The block-prediction history at slice start: elements 0 to NG - 1 are set, and the others keep what they hold, which
R484 does not say (DEDUCED, log entry 9; 10_state.md R47, 70_reset_and_hazards.md R484). -/
def State.sliceBp (s : State) : State :=
  s.withBp
    { ptypeCur := fillPrefix s.ng .left s.bp.ptypeCur
      bpVecCur := fillPrefix s.ng 3 s.bp.bpVecCur
      ptypeNext := fillPrefix s.ng .map s.bp.ptypeNext
      bpVecNext := fillPrefix s.ng 3 s.bp.bpVecNext
      window := Tri.fill BpCost.zero
      bpRun := 0
      edgeHold := 0
      bpGroupsSeen := 0
      ngSlice := BitVec.ofNat 12 s.ng }

/-- The memories at slice start: no valid ICH entry, every line-buffer element unspecified
(70_reset_and_hazards.md R484, 42_ich.md R270). -/
def State.sliceMems (s : State) : State :=
  { s with prev := LineBuf.empty, cur := LineBuf.empty, orig := LineBuf.empty, ich := ichClear s.ich }

/-- The `STATUS` writes of `SLICE_START` (45_sequencing.md R415). -/
def State.sliceStatus (s : State) (isEncoder : Bool) : State :=
  s.withSt { s.st with isEncoder := isEncoder, sliceActive := true, sliceDone := false, stateValid := true }

/-- `SLICE_START` (45_sequencing.md R415). -/
def execSliceStart (isEncoder : Bool) (s : State) : Host.Outcome State Fault Refusal :=
  complete (do
    unlocked 0
    update State.leaveFault
    demand (fun s => s.st.cfgValid) .sequence (fun _ => 0)
    update (fun s => (s.sliceRegs.sliceBp.sliceMems).sliceStatus isEncoder)) s

/-- The block-prediction window cleared (45_sequencing.md R416, 40_prediction.md R191). -/
def BpRegs.clearWindow (b : BpRegs) : BpRegs :=
  { b with window := Tri.fill BpCost.zero, bpGroupsSeen := 0, bpRun := 0, edgeHold := 0 }

/-- The ICH at line start (45_sequencing.md R416, 42_ich.md R271). -/
def State.lineIch (s : State) : State :=
  if 1 ≤ s.vPos ∧ s.multiSlice = true then s.withIch (ichPartialClear (ichSlots s) s.ich) else s

/-- The other effects of `LINE_START` (45_sequencing.md R416). -/
def State.openLine (s : State) : State :=
  { s with
    bp := s.bp.clearWindow
    flat := { s.flat with sgPos := 0, flatCur := FlatRec.zero, flatNext := FlatRec.zero }
    pos := { s.pos with hPos := 0, groupInLine := 0 }
    cur := LineBuf.empty
    mode := { s.mode with lineOpen := true } }

/-- `LINE_START` (45_sequencing.md R416). -/
def execLineStart (s : State) : Host.Outcome State Fault Refusal :=
  unlessFaulted (do
    needsSlice
    demand (fun s => s.st.sliceActive && !s.mode.lineOpen) .sequence (fun _ => 0)
    update (fun s => s.lineIch.openLine)) s

/-- `reduce(c, x)` (45_sequencing.md R417). -/
def reduceSample (s : State) (c : Cpnt) (x : Int) : Int :=
  let k := s.depth c - s.lbd c
  if k = 0 then x
  else min (shr (x + 2 ^ (k - 1)) k) (2 ^ (s.depth c - k) - 1) * 2 ^ k

/-- One sample of the copy of `cur` into `prev` (45_sequencing.md R418). -/
def reduceCell (c : Cpnt) (i : Nat) : Act Unit := do
  let x ← sense (fun s => readCell .cur s.cur c i)
  update (fun s => s.setPrev c i (reduceSample s c x))

/-- The copy of one component's line (45_sequencing.md R418). -/
def reduceLine (c : Cpnt) : Act Unit := do
  let w ← look (fun s => s.width)
  forAll (reduceCell c) (List.range w)

/-- The block-prediction classes of the next line become the current ones (45_sequencing.md R418). -/
def State.lineBp (s : State) : State :=
  s.withBp
    { s.bp with
      ptypeCur := copyPrefix .left s.ng s.bp.ptypeNext s.bp.ptypeCur
      bpVecCur := copyPrefix 0 s.ng s.bp.bpVecNext s.bp.bpVecCur }

/-- The position after a line, and the end of the slice (45_sequencing.md R418). -/
def State.closeLine (s : State) (v : BitVec 16) : State :=
  { s with
    pos := { s.pos with vPos := v, hPos := 0, groupInLine := 0 }
    mode := { s.mode with lineOpen := false }
    orig := LineBuf.empty
    st := if v.toNat = s.height then { s.st with sliceDone := true, sliceActive := false } else s.st }

/-- `LINE_END` (45_sequencing.md R418). -/
def execLineEnd (s : State) : Host.Outcome State Fault Refusal :=
  unlessFaulted (do
    needsSlice
    demand (fun s => s.st.sliceActive && s.mode.lineOpen && !s.mode.groupPending && decide (s.width ≤ s.hPos))
      .sequence (fun _ => 0)
    forAll reduceLine Idx3.all
    update State.lineBp
    let v ← look (fun s => s.vPos + 1)
    let v' ← fitU 16 0x0301 v
    update (fun s => s.closeLine v')) s

end Sys2Proof.Machine
end

