-- ==== Sys2Proof/Machine/Dispatch.lean ====
section
/-! DEFINITION. One arm per command: its meaning. -/

namespace Sys2Proof.Machine

def exec (i : Instr) (s : State) : Host.Outcome State Fault Refusal :=
  match i with
  | .nop => Sys2Proof.Machine.execNop s
  | .cfgWr idx => Sys2Proof.Machine.execCfgWr idx s
  | .cfgCheck => Sys2Proof.Machine.execCfgCheck s
  | .sliceStart isEncoder => Sys2Proof.Machine.execSliceStart isEncoder s
  | .lineStart => Sys2Proof.Machine.execLineStart s
  | .lineEnd => Sys2Proof.Machine.execLineEnd s
  | .origWr c k => Sys2Proof.Machine.execOrigWr c k s
  | .pixRd c k => Sys2Proof.Machine.execPixRd c k s
  | .regRd idx => Sys2Proof.Machine.execRegRd idx s
  | .mapq c => Sys2Proof.Machine.execMapq c s
  | .quant => Sys2Proof.Machine.execQuant s
  | .dequant => Sys2Proof.Machine.execDequant s
  | .rsize => Sys2Proof.Machine.execRsize s
  | .recon c => Sys2Proof.Machine.execRecon c s
  | .pred c sel h => Sys2Proof.Machine.execPred c sel h s
  | .midpoint c gs => Sys2Proof.Machine.execMidpoint c gs s
  | .ichLookup c k => Sys2Proof.Machine.execIchLookup c k s
  | .ichTest gs => Sys2Proof.Machine.execIchTest gs s
  | .ichPick h => Sys2Proof.Machine.execIchPick h s
  | .flatDetect gs => Sys2Proof.Machine.execFlatDetect gs s
  | .psizeAdj c => Sys2Proof.Machine.execPsizeAdj c s
  | .encGroup => Sys2Proof.Machine.execEncGroup s
  | .decGroup => Sys2Proof.Machine.execDecGroup s
  | .rcUpdate => Sys2Proof.Machine.execRcUpdate s

end Sys2Proof.Machine
end

