-- ==== Sys2Proof/Machine/Step.lean ====
section
/-! DEFINITION. One step: the command port takes the next command the sequencer presents and the block executes it to
completion (30_encoding.md R130, 00_scope.md R14). -/

namespace Sys2Proof.Machine

/-- A command word on the port: the command it encodes is executed, and a word that encodes none is illegal
(30_encoding.md R132). -/
def execWord (w : Word) (s : State) : Host.Outcome State Fault Refusal :=
  match decode w with
  | .ok i => exec i s
  | .error _ => illegalWord w s

/-- One step. With no command presented the block holds its state (70_reset_and_hazards.md R480, 60_exceptions.md
R453). -/
def step (s : State) : Host.Outcome State Fault Refusal :=
  match s.pending with
  | [] => .next s
  | c :: rest => execWord c.word (s.present c rest)

/-- The state with one more command before those the sequencer will present: the command of `nbits` table bits `w`,
with the operands the ports hold. -/
def State.withFetchWord (s : State) (nbits w : Nat) : State :=
  { s with pending := ⟨tableWord nbits w, s.port.opA, s.port.opB⟩ :: s.pending }

end Sys2Proof.Machine
end

