-- ==== Sys2Proof/Laws/State.lean ====
section
/-! SUPPORT. One lemma per field per update of the state, and the laws of triples: a proof cites these and never unfolds
an update. -/

namespace Sys2Proof

@[simp] theorem Tri.get_set_self {α : Type} (t : Tri α) (i : Idx3) (v : α) : (t.set i v).get i = v := by cases i <;> rfl
theorem Tri.get_set {α : Type} (t : Tri α) (i j : Idx3) (v : α) :
    (t.set i v).get j = if j = i then v else t.get j := by cases i <;> cases j <;> rfl
@[simp] theorem Tri.get_fill {α : Type} (v : α) (i : Idx3) : (Tri.fill v).get i = v := by cases i <;> rfl
@[simp] theorem Tri.get_i0 {α : Type} (t : Tri α) : t.get .i0 = t.a0 := rfl
@[simp] theorem Tri.get_i1 {α : Type} (t : Tri α) : t.get .i1 = t.a1 := rfl
@[simp] theorem Tri.get_i2 {α : Type} (t : Tri α) : t.get .i2 = t.a2 := rfl
theorem Tri.ext_get {α : Type} {t u : Tri α} (h : ∀ i, t.get i = u.get i) : t = u := by
  cases t; cases u
  have h0 := h .i0
  have h1 := h .i1
  have h2 := h .i2
  simp only [Tri.get] at h0 h1 h2
  simp [h0, h1, h2]
@[simp] theorem Idx3.toNat_i0 : Idx3.i0.toNat = 0 := rfl
@[simp] theorem Idx3.toNat_i1 : Idx3.i1.toNat = 1 := rfl
@[simp] theorem Idx3.toNat_i2 : Idx3.i2.toNat = 2 := rfl
theorem Idx3.toNat_lt (i : Idx3) : i.toNat < 3 := by cases i <;> decide
theorem Idx3.toNat_inj {i j : Idx3} (h : i.toNat = j.toNat) : i = j := by cases i <;> cases j <;> simp_all
theorem Idx3.mem_all (i : Idx3) : i ∈ Idx3.all := by cases i <;> decide

namespace Machine

@[simp] theorem State.withPort_pending (s : State) (v : Port) : (s.withPort v).pending = s.pending := rfl
@[simp] theorem State.withPort_port (s : State) (v : Port) : (s.withPort v).port = v := rfl
@[simp] theorem State.withPort_mem (s : State) (v : Port) : (s.withPort v).mem = s.mem := rfl
@[simp] theorem State.withPort_flatThresh (s : State) (v : Port) : (s.withPort v).flatThresh = s.flatThresh := rfl
@[simp] theorem State.withPort_st (s : State) (v : Port) : (s.withPort v).st = s.st := rfl
@[simp] theorem State.withPort_pos (s : State) (v : Port) : (s.withPort v).pos = s.pos := rfl
@[simp] theorem State.withPort_qp (s : State) (v : Port) : (s.withPort v).qp = s.qp := rfl
@[simp] theorem State.withPort_buf (s : State) (v : Port) : (s.withPort v).buf = s.buf := rfl
@[simp] theorem State.withPort_rc (s : State) (v : Port) : (s.withPort v).rc = s.rc := rfl
@[simp] theorem State.withPort_size (s : State) (v : Port) : (s.withPort v).size = s.size := rfl
@[simp] theorem State.withPort_mode (s : State) (v : Port) : (s.withPort v).mode = s.mode := rfl
@[simp] theorem State.withPort_flat (s : State) (v : Port) : (s.withPort v).flat = s.flat := rfl
@[simp] theorem State.withPort_bp (s : State) (v : Port) : (s.withPort v).bp = s.bp := rfl
@[simp] theorem State.withPort_scratch (s : State) (v : Port) : (s.withPort v).scratch = s.scratch := rfl
@[simp] theorem State.withPort_prev (s : State) (v : Port) : (s.withPort v).prev = s.prev := rfl
@[simp] theorem State.withPort_cur (s : State) (v : Port) : (s.withPort v).cur = s.cur := rfl
@[simp] theorem State.withPort_orig (s : State) (v : Port) : (s.withPort v).orig = s.orig := rfl
@[simp] theorem State.withPort_ich (s : State) (v : Port) : (s.withPort v).ich = s.ich := rfl
@[simp] theorem State.withPort_io (s : State) (v : Port) : (s.withPort v).io = s.io := rfl
@[simp] theorem State.withPort_ngChecked (s : State) (v : Port) : (s.withPort v).ngChecked = s.ngChecked := rfl

@[simp] theorem State.withMem_pending (s : State) (v : Memory) : (s.withMem v).pending = s.pending := rfl
@[simp] theorem State.withMem_port (s : State) (v : Memory) : (s.withMem v).port = s.port := rfl
@[simp] theorem State.withMem_mem (s : State) (v : Memory) : (s.withMem v).mem = v := rfl
@[simp] theorem State.withMem_flatThresh (s : State) (v : Memory) : (s.withMem v).flatThresh = s.flatThresh := rfl
@[simp] theorem State.withMem_st (s : State) (v : Memory) : (s.withMem v).st = s.st := rfl
@[simp] theorem State.withMem_pos (s : State) (v : Memory) : (s.withMem v).pos = s.pos := rfl
@[simp] theorem State.withMem_qp (s : State) (v : Memory) : (s.withMem v).qp = s.qp := rfl
@[simp] theorem State.withMem_buf (s : State) (v : Memory) : (s.withMem v).buf = s.buf := rfl
@[simp] theorem State.withMem_rc (s : State) (v : Memory) : (s.withMem v).rc = s.rc := rfl
@[simp] theorem State.withMem_size (s : State) (v : Memory) : (s.withMem v).size = s.size := rfl
@[simp] theorem State.withMem_mode (s : State) (v : Memory) : (s.withMem v).mode = s.mode := rfl
@[simp] theorem State.withMem_flat (s : State) (v : Memory) : (s.withMem v).flat = s.flat := rfl
@[simp] theorem State.withMem_bp (s : State) (v : Memory) : (s.withMem v).bp = s.bp := rfl
@[simp] theorem State.withMem_scratch (s : State) (v : Memory) : (s.withMem v).scratch = s.scratch := rfl
@[simp] theorem State.withMem_prev (s : State) (v : Memory) : (s.withMem v).prev = s.prev := rfl
@[simp] theorem State.withMem_cur (s : State) (v : Memory) : (s.withMem v).cur = s.cur := rfl
@[simp] theorem State.withMem_orig (s : State) (v : Memory) : (s.withMem v).orig = s.orig := rfl
@[simp] theorem State.withMem_ich (s : State) (v : Memory) : (s.withMem v).ich = s.ich := rfl
@[simp] theorem State.withMem_io (s : State) (v : Memory) : (s.withMem v).io = s.io := rfl
@[simp] theorem State.withMem_ngChecked (s : State) (v : Memory) : (s.withMem v).ngChecked = s.ngChecked := rfl

@[simp] theorem State.withFlatThresh_pending (s : State) (v : BitVec 16) : (s.withFlatThresh v).pending = s.pending := rfl
@[simp] theorem State.withFlatThresh_port (s : State) (v : BitVec 16) : (s.withFlatThresh v).port = s.port := rfl
@[simp] theorem State.withFlatThresh_mem (s : State) (v : BitVec 16) : (s.withFlatThresh v).mem = s.mem := rfl
@[simp] theorem State.withFlatThresh_flatThresh (s : State) (v : BitVec 16) : (s.withFlatThresh v).flatThresh = v := rfl
@[simp] theorem State.withFlatThresh_st (s : State) (v : BitVec 16) : (s.withFlatThresh v).st = s.st := rfl
@[simp] theorem State.withFlatThresh_pos (s : State) (v : BitVec 16) : (s.withFlatThresh v).pos = s.pos := rfl
@[simp] theorem State.withFlatThresh_qp (s : State) (v : BitVec 16) : (s.withFlatThresh v).qp = s.qp := rfl
@[simp] theorem State.withFlatThresh_buf (s : State) (v : BitVec 16) : (s.withFlatThresh v).buf = s.buf := rfl
@[simp] theorem State.withFlatThresh_rc (s : State) (v : BitVec 16) : (s.withFlatThresh v).rc = s.rc := rfl
@[simp] theorem State.withFlatThresh_size (s : State) (v : BitVec 16) : (s.withFlatThresh v).size = s.size := rfl
@[simp] theorem State.withFlatThresh_mode (s : State) (v : BitVec 16) : (s.withFlatThresh v).mode = s.mode := rfl
@[simp] theorem State.withFlatThresh_flat (s : State) (v : BitVec 16) : (s.withFlatThresh v).flat = s.flat := rfl
@[simp] theorem State.withFlatThresh_bp (s : State) (v : BitVec 16) : (s.withFlatThresh v).bp = s.bp := rfl
@[simp] theorem State.withFlatThresh_scratch (s : State) (v : BitVec 16) : (s.withFlatThresh v).scratch = s.scratch := rfl
@[simp] theorem State.withFlatThresh_prev (s : State) (v : BitVec 16) : (s.withFlatThresh v).prev = s.prev := rfl
@[simp] theorem State.withFlatThresh_cur (s : State) (v : BitVec 16) : (s.withFlatThresh v).cur = s.cur := rfl
@[simp] theorem State.withFlatThresh_orig (s : State) (v : BitVec 16) : (s.withFlatThresh v).orig = s.orig := rfl
@[simp] theorem State.withFlatThresh_ich (s : State) (v : BitVec 16) : (s.withFlatThresh v).ich = s.ich := rfl
@[simp] theorem State.withFlatThresh_io (s : State) (v : BitVec 16) : (s.withFlatThresh v).io = s.io := rfl
@[simp] theorem State.withFlatThresh_ngChecked (s : State) (v : BitVec 16) : (s.withFlatThresh v).ngChecked = s.ngChecked := rfl

@[simp] theorem State.withSt_pending (s : State) (v : Status) : (s.withSt v).pending = s.pending := rfl
@[simp] theorem State.withSt_port (s : State) (v : Status) : (s.withSt v).port = s.port := rfl
@[simp] theorem State.withSt_mem (s : State) (v : Status) : (s.withSt v).mem = s.mem := rfl
@[simp] theorem State.withSt_flatThresh (s : State) (v : Status) : (s.withSt v).flatThresh = s.flatThresh := rfl
@[simp] theorem State.withSt_st (s : State) (v : Status) : (s.withSt v).st = v := rfl
@[simp] theorem State.withSt_pos (s : State) (v : Status) : (s.withSt v).pos = s.pos := rfl
@[simp] theorem State.withSt_qp (s : State) (v : Status) : (s.withSt v).qp = s.qp := rfl
@[simp] theorem State.withSt_buf (s : State) (v : Status) : (s.withSt v).buf = s.buf := rfl
@[simp] theorem State.withSt_rc (s : State) (v : Status) : (s.withSt v).rc = s.rc := rfl
@[simp] theorem State.withSt_size (s : State) (v : Status) : (s.withSt v).size = s.size := rfl
@[simp] theorem State.withSt_mode (s : State) (v : Status) : (s.withSt v).mode = s.mode := rfl
@[simp] theorem State.withSt_flat (s : State) (v : Status) : (s.withSt v).flat = s.flat := rfl
@[simp] theorem State.withSt_bp (s : State) (v : Status) : (s.withSt v).bp = s.bp := rfl
@[simp] theorem State.withSt_scratch (s : State) (v : Status) : (s.withSt v).scratch = s.scratch := rfl
@[simp] theorem State.withSt_prev (s : State) (v : Status) : (s.withSt v).prev = s.prev := rfl
@[simp] theorem State.withSt_cur (s : State) (v : Status) : (s.withSt v).cur = s.cur := rfl
@[simp] theorem State.withSt_orig (s : State) (v : Status) : (s.withSt v).orig = s.orig := rfl
@[simp] theorem State.withSt_ich (s : State) (v : Status) : (s.withSt v).ich = s.ich := rfl
@[simp] theorem State.withSt_io (s : State) (v : Status) : (s.withSt v).io = s.io := rfl
@[simp] theorem State.withSt_ngChecked (s : State) (v : Status) : (s.withSt v).ngChecked = s.ngChecked := rfl

@[simp] theorem State.withPos_pending (s : State) (v : PosRegs) : (s.withPos v).pending = s.pending := rfl
@[simp] theorem State.withPos_port (s : State) (v : PosRegs) : (s.withPos v).port = s.port := rfl
@[simp] theorem State.withPos_mem (s : State) (v : PosRegs) : (s.withPos v).mem = s.mem := rfl
@[simp] theorem State.withPos_flatThresh (s : State) (v : PosRegs) : (s.withPos v).flatThresh = s.flatThresh := rfl
@[simp] theorem State.withPos_st (s : State) (v : PosRegs) : (s.withPos v).st = s.st := rfl
@[simp] theorem State.withPos_pos (s : State) (v : PosRegs) : (s.withPos v).pos = v := rfl
@[simp] theorem State.withPos_qp (s : State) (v : PosRegs) : (s.withPos v).qp = s.qp := rfl
@[simp] theorem State.withPos_buf (s : State) (v : PosRegs) : (s.withPos v).buf = s.buf := rfl
@[simp] theorem State.withPos_rc (s : State) (v : PosRegs) : (s.withPos v).rc = s.rc := rfl
@[simp] theorem State.withPos_size (s : State) (v : PosRegs) : (s.withPos v).size = s.size := rfl
@[simp] theorem State.withPos_mode (s : State) (v : PosRegs) : (s.withPos v).mode = s.mode := rfl
@[simp] theorem State.withPos_flat (s : State) (v : PosRegs) : (s.withPos v).flat = s.flat := rfl
@[simp] theorem State.withPos_bp (s : State) (v : PosRegs) : (s.withPos v).bp = s.bp := rfl
@[simp] theorem State.withPos_scratch (s : State) (v : PosRegs) : (s.withPos v).scratch = s.scratch := rfl
@[simp] theorem State.withPos_prev (s : State) (v : PosRegs) : (s.withPos v).prev = s.prev := rfl
@[simp] theorem State.withPos_cur (s : State) (v : PosRegs) : (s.withPos v).cur = s.cur := rfl
@[simp] theorem State.withPos_orig (s : State) (v : PosRegs) : (s.withPos v).orig = s.orig := rfl
@[simp] theorem State.withPos_ich (s : State) (v : PosRegs) : (s.withPos v).ich = s.ich := rfl
@[simp] theorem State.withPos_io (s : State) (v : PosRegs) : (s.withPos v).io = s.io := rfl
@[simp] theorem State.withPos_ngChecked (s : State) (v : PosRegs) : (s.withPos v).ngChecked = s.ngChecked := rfl

@[simp] theorem State.withQp_pending (s : State) (v : QpRegs) : (s.withQp v).pending = s.pending := rfl
@[simp] theorem State.withQp_port (s : State) (v : QpRegs) : (s.withQp v).port = s.port := rfl
@[simp] theorem State.withQp_mem (s : State) (v : QpRegs) : (s.withQp v).mem = s.mem := rfl
@[simp] theorem State.withQp_flatThresh (s : State) (v : QpRegs) : (s.withQp v).flatThresh = s.flatThresh := rfl
@[simp] theorem State.withQp_st (s : State) (v : QpRegs) : (s.withQp v).st = s.st := rfl
@[simp] theorem State.withQp_pos (s : State) (v : QpRegs) : (s.withQp v).pos = s.pos := rfl
@[simp] theorem State.withQp_qp (s : State) (v : QpRegs) : (s.withQp v).qp = v := rfl
@[simp] theorem State.withQp_buf (s : State) (v : QpRegs) : (s.withQp v).buf = s.buf := rfl
@[simp] theorem State.withQp_rc (s : State) (v : QpRegs) : (s.withQp v).rc = s.rc := rfl
@[simp] theorem State.withQp_size (s : State) (v : QpRegs) : (s.withQp v).size = s.size := rfl
@[simp] theorem State.withQp_mode (s : State) (v : QpRegs) : (s.withQp v).mode = s.mode := rfl
@[simp] theorem State.withQp_flat (s : State) (v : QpRegs) : (s.withQp v).flat = s.flat := rfl
@[simp] theorem State.withQp_bp (s : State) (v : QpRegs) : (s.withQp v).bp = s.bp := rfl
@[simp] theorem State.withQp_scratch (s : State) (v : QpRegs) : (s.withQp v).scratch = s.scratch := rfl
@[simp] theorem State.withQp_prev (s : State) (v : QpRegs) : (s.withQp v).prev = s.prev := rfl
@[simp] theorem State.withQp_cur (s : State) (v : QpRegs) : (s.withQp v).cur = s.cur := rfl
@[simp] theorem State.withQp_orig (s : State) (v : QpRegs) : (s.withQp v).orig = s.orig := rfl
@[simp] theorem State.withQp_ich (s : State) (v : QpRegs) : (s.withQp v).ich = s.ich := rfl
@[simp] theorem State.withQp_io (s : State) (v : QpRegs) : (s.withQp v).io = s.io := rfl
@[simp] theorem State.withQp_ngChecked (s : State) (v : QpRegs) : (s.withQp v).ngChecked = s.ngChecked := rfl

@[simp] theorem State.withBuf_pending (s : State) (v : BufRegs) : (s.withBuf v).pending = s.pending := rfl
@[simp] theorem State.withBuf_port (s : State) (v : BufRegs) : (s.withBuf v).port = s.port := rfl
@[simp] theorem State.withBuf_mem (s : State) (v : BufRegs) : (s.withBuf v).mem = s.mem := rfl
@[simp] theorem State.withBuf_flatThresh (s : State) (v : BufRegs) : (s.withBuf v).flatThresh = s.flatThresh := rfl
@[simp] theorem State.withBuf_st (s : State) (v : BufRegs) : (s.withBuf v).st = s.st := rfl
@[simp] theorem State.withBuf_pos (s : State) (v : BufRegs) : (s.withBuf v).pos = s.pos := rfl
@[simp] theorem State.withBuf_qp (s : State) (v : BufRegs) : (s.withBuf v).qp = s.qp := rfl
@[simp] theorem State.withBuf_buf (s : State) (v : BufRegs) : (s.withBuf v).buf = v := rfl
@[simp] theorem State.withBuf_rc (s : State) (v : BufRegs) : (s.withBuf v).rc = s.rc := rfl
@[simp] theorem State.withBuf_size (s : State) (v : BufRegs) : (s.withBuf v).size = s.size := rfl
@[simp] theorem State.withBuf_mode (s : State) (v : BufRegs) : (s.withBuf v).mode = s.mode := rfl
@[simp] theorem State.withBuf_flat (s : State) (v : BufRegs) : (s.withBuf v).flat = s.flat := rfl
@[simp] theorem State.withBuf_bp (s : State) (v : BufRegs) : (s.withBuf v).bp = s.bp := rfl
@[simp] theorem State.withBuf_scratch (s : State) (v : BufRegs) : (s.withBuf v).scratch = s.scratch := rfl
@[simp] theorem State.withBuf_prev (s : State) (v : BufRegs) : (s.withBuf v).prev = s.prev := rfl
@[simp] theorem State.withBuf_cur (s : State) (v : BufRegs) : (s.withBuf v).cur = s.cur := rfl
@[simp] theorem State.withBuf_orig (s : State) (v : BufRegs) : (s.withBuf v).orig = s.orig := rfl
@[simp] theorem State.withBuf_ich (s : State) (v : BufRegs) : (s.withBuf v).ich = s.ich := rfl
@[simp] theorem State.withBuf_io (s : State) (v : BufRegs) : (s.withBuf v).io = s.io := rfl
@[simp] theorem State.withBuf_ngChecked (s : State) (v : BufRegs) : (s.withBuf v).ngChecked = s.ngChecked := rfl

@[simp] theorem State.withRc_pending (s : State) (v : RcRegs) : (s.withRc v).pending = s.pending := rfl
@[simp] theorem State.withRc_port (s : State) (v : RcRegs) : (s.withRc v).port = s.port := rfl
@[simp] theorem State.withRc_mem (s : State) (v : RcRegs) : (s.withRc v).mem = s.mem := rfl
@[simp] theorem State.withRc_flatThresh (s : State) (v : RcRegs) : (s.withRc v).flatThresh = s.flatThresh := rfl
@[simp] theorem State.withRc_st (s : State) (v : RcRegs) : (s.withRc v).st = s.st := rfl
@[simp] theorem State.withRc_pos (s : State) (v : RcRegs) : (s.withRc v).pos = s.pos := rfl
@[simp] theorem State.withRc_qp (s : State) (v : RcRegs) : (s.withRc v).qp = s.qp := rfl
@[simp] theorem State.withRc_buf (s : State) (v : RcRegs) : (s.withRc v).buf = s.buf := rfl
@[simp] theorem State.withRc_rc (s : State) (v : RcRegs) : (s.withRc v).rc = v := rfl
@[simp] theorem State.withRc_size (s : State) (v : RcRegs) : (s.withRc v).size = s.size := rfl
@[simp] theorem State.withRc_mode (s : State) (v : RcRegs) : (s.withRc v).mode = s.mode := rfl
@[simp] theorem State.withRc_flat (s : State) (v : RcRegs) : (s.withRc v).flat = s.flat := rfl
@[simp] theorem State.withRc_bp (s : State) (v : RcRegs) : (s.withRc v).bp = s.bp := rfl
@[simp] theorem State.withRc_scratch (s : State) (v : RcRegs) : (s.withRc v).scratch = s.scratch := rfl
@[simp] theorem State.withRc_prev (s : State) (v : RcRegs) : (s.withRc v).prev = s.prev := rfl
@[simp] theorem State.withRc_cur (s : State) (v : RcRegs) : (s.withRc v).cur = s.cur := rfl
@[simp] theorem State.withRc_orig (s : State) (v : RcRegs) : (s.withRc v).orig = s.orig := rfl
@[simp] theorem State.withRc_ich (s : State) (v : RcRegs) : (s.withRc v).ich = s.ich := rfl
@[simp] theorem State.withRc_io (s : State) (v : RcRegs) : (s.withRc v).io = s.io := rfl
@[simp] theorem State.withRc_ngChecked (s : State) (v : RcRegs) : (s.withRc v).ngChecked = s.ngChecked := rfl

@[simp] theorem State.withSize_pending (s : State) (v : SizeRegs) : (s.withSize v).pending = s.pending := rfl
@[simp] theorem State.withSize_port (s : State) (v : SizeRegs) : (s.withSize v).port = s.port := rfl
@[simp] theorem State.withSize_mem (s : State) (v : SizeRegs) : (s.withSize v).mem = s.mem := rfl
@[simp] theorem State.withSize_flatThresh (s : State) (v : SizeRegs) : (s.withSize v).flatThresh = s.flatThresh := rfl
@[simp] theorem State.withSize_st (s : State) (v : SizeRegs) : (s.withSize v).st = s.st := rfl
@[simp] theorem State.withSize_pos (s : State) (v : SizeRegs) : (s.withSize v).pos = s.pos := rfl
@[simp] theorem State.withSize_qp (s : State) (v : SizeRegs) : (s.withSize v).qp = s.qp := rfl
@[simp] theorem State.withSize_buf (s : State) (v : SizeRegs) : (s.withSize v).buf = s.buf := rfl
@[simp] theorem State.withSize_rc (s : State) (v : SizeRegs) : (s.withSize v).rc = s.rc := rfl
@[simp] theorem State.withSize_size (s : State) (v : SizeRegs) : (s.withSize v).size = v := rfl
@[simp] theorem State.withSize_mode (s : State) (v : SizeRegs) : (s.withSize v).mode = s.mode := rfl
@[simp] theorem State.withSize_flat (s : State) (v : SizeRegs) : (s.withSize v).flat = s.flat := rfl
@[simp] theorem State.withSize_bp (s : State) (v : SizeRegs) : (s.withSize v).bp = s.bp := rfl
@[simp] theorem State.withSize_scratch (s : State) (v : SizeRegs) : (s.withSize v).scratch = s.scratch := rfl
@[simp] theorem State.withSize_prev (s : State) (v : SizeRegs) : (s.withSize v).prev = s.prev := rfl
@[simp] theorem State.withSize_cur (s : State) (v : SizeRegs) : (s.withSize v).cur = s.cur := rfl
@[simp] theorem State.withSize_orig (s : State) (v : SizeRegs) : (s.withSize v).orig = s.orig := rfl
@[simp] theorem State.withSize_ich (s : State) (v : SizeRegs) : (s.withSize v).ich = s.ich := rfl
@[simp] theorem State.withSize_io (s : State) (v : SizeRegs) : (s.withSize v).io = s.io := rfl
@[simp] theorem State.withSize_ngChecked (s : State) (v : SizeRegs) : (s.withSize v).ngChecked = s.ngChecked := rfl

@[simp] theorem State.withMode_pending (s : State) (v : ModeRegs) : (s.withMode v).pending = s.pending := rfl
@[simp] theorem State.withMode_port (s : State) (v : ModeRegs) : (s.withMode v).port = s.port := rfl
@[simp] theorem State.withMode_mem (s : State) (v : ModeRegs) : (s.withMode v).mem = s.mem := rfl
@[simp] theorem State.withMode_flatThresh (s : State) (v : ModeRegs) : (s.withMode v).flatThresh = s.flatThresh := rfl
@[simp] theorem State.withMode_st (s : State) (v : ModeRegs) : (s.withMode v).st = s.st := rfl
@[simp] theorem State.withMode_pos (s : State) (v : ModeRegs) : (s.withMode v).pos = s.pos := rfl
@[simp] theorem State.withMode_qp (s : State) (v : ModeRegs) : (s.withMode v).qp = s.qp := rfl
@[simp] theorem State.withMode_buf (s : State) (v : ModeRegs) : (s.withMode v).buf = s.buf := rfl
@[simp] theorem State.withMode_rc (s : State) (v : ModeRegs) : (s.withMode v).rc = s.rc := rfl
@[simp] theorem State.withMode_size (s : State) (v : ModeRegs) : (s.withMode v).size = s.size := rfl
@[simp] theorem State.withMode_mode (s : State) (v : ModeRegs) : (s.withMode v).mode = v := rfl
@[simp] theorem State.withMode_flat (s : State) (v : ModeRegs) : (s.withMode v).flat = s.flat := rfl
@[simp] theorem State.withMode_bp (s : State) (v : ModeRegs) : (s.withMode v).bp = s.bp := rfl
@[simp] theorem State.withMode_scratch (s : State) (v : ModeRegs) : (s.withMode v).scratch = s.scratch := rfl
@[simp] theorem State.withMode_prev (s : State) (v : ModeRegs) : (s.withMode v).prev = s.prev := rfl
@[simp] theorem State.withMode_cur (s : State) (v : ModeRegs) : (s.withMode v).cur = s.cur := rfl
@[simp] theorem State.withMode_orig (s : State) (v : ModeRegs) : (s.withMode v).orig = s.orig := rfl
@[simp] theorem State.withMode_ich (s : State) (v : ModeRegs) : (s.withMode v).ich = s.ich := rfl
@[simp] theorem State.withMode_io (s : State) (v : ModeRegs) : (s.withMode v).io = s.io := rfl
@[simp] theorem State.withMode_ngChecked (s : State) (v : ModeRegs) : (s.withMode v).ngChecked = s.ngChecked := rfl

@[simp] theorem State.withFlat_pending (s : State) (v : FlatRegs) : (s.withFlat v).pending = s.pending := rfl
@[simp] theorem State.withFlat_port (s : State) (v : FlatRegs) : (s.withFlat v).port = s.port := rfl
@[simp] theorem State.withFlat_mem (s : State) (v : FlatRegs) : (s.withFlat v).mem = s.mem := rfl
@[simp] theorem State.withFlat_flatThresh (s : State) (v : FlatRegs) : (s.withFlat v).flatThresh = s.flatThresh := rfl
@[simp] theorem State.withFlat_st (s : State) (v : FlatRegs) : (s.withFlat v).st = s.st := rfl
@[simp] theorem State.withFlat_pos (s : State) (v : FlatRegs) : (s.withFlat v).pos = s.pos := rfl
@[simp] theorem State.withFlat_qp (s : State) (v : FlatRegs) : (s.withFlat v).qp = s.qp := rfl
@[simp] theorem State.withFlat_buf (s : State) (v : FlatRegs) : (s.withFlat v).buf = s.buf := rfl
@[simp] theorem State.withFlat_rc (s : State) (v : FlatRegs) : (s.withFlat v).rc = s.rc := rfl
@[simp] theorem State.withFlat_size (s : State) (v : FlatRegs) : (s.withFlat v).size = s.size := rfl
@[simp] theorem State.withFlat_mode (s : State) (v : FlatRegs) : (s.withFlat v).mode = s.mode := rfl
@[simp] theorem State.withFlat_flat (s : State) (v : FlatRegs) : (s.withFlat v).flat = v := rfl
@[simp] theorem State.withFlat_bp (s : State) (v : FlatRegs) : (s.withFlat v).bp = s.bp := rfl
@[simp] theorem State.withFlat_scratch (s : State) (v : FlatRegs) : (s.withFlat v).scratch = s.scratch := rfl
@[simp] theorem State.withFlat_prev (s : State) (v : FlatRegs) : (s.withFlat v).prev = s.prev := rfl
@[simp] theorem State.withFlat_cur (s : State) (v : FlatRegs) : (s.withFlat v).cur = s.cur := rfl
@[simp] theorem State.withFlat_orig (s : State) (v : FlatRegs) : (s.withFlat v).orig = s.orig := rfl
@[simp] theorem State.withFlat_ich (s : State) (v : FlatRegs) : (s.withFlat v).ich = s.ich := rfl
@[simp] theorem State.withFlat_io (s : State) (v : FlatRegs) : (s.withFlat v).io = s.io := rfl
@[simp] theorem State.withFlat_ngChecked (s : State) (v : FlatRegs) : (s.withFlat v).ngChecked = s.ngChecked := rfl

@[simp] theorem State.withBp_pending (s : State) (v : BpRegs) : (s.withBp v).pending = s.pending := rfl
@[simp] theorem State.withBp_port (s : State) (v : BpRegs) : (s.withBp v).port = s.port := rfl
@[simp] theorem State.withBp_mem (s : State) (v : BpRegs) : (s.withBp v).mem = s.mem := rfl
@[simp] theorem State.withBp_flatThresh (s : State) (v : BpRegs) : (s.withBp v).flatThresh = s.flatThresh := rfl
@[simp] theorem State.withBp_st (s : State) (v : BpRegs) : (s.withBp v).st = s.st := rfl
@[simp] theorem State.withBp_pos (s : State) (v : BpRegs) : (s.withBp v).pos = s.pos := rfl
@[simp] theorem State.withBp_qp (s : State) (v : BpRegs) : (s.withBp v).qp = s.qp := rfl
@[simp] theorem State.withBp_buf (s : State) (v : BpRegs) : (s.withBp v).buf = s.buf := rfl
@[simp] theorem State.withBp_rc (s : State) (v : BpRegs) : (s.withBp v).rc = s.rc := rfl
@[simp] theorem State.withBp_size (s : State) (v : BpRegs) : (s.withBp v).size = s.size := rfl
@[simp] theorem State.withBp_mode (s : State) (v : BpRegs) : (s.withBp v).mode = s.mode := rfl
@[simp] theorem State.withBp_flat (s : State) (v : BpRegs) : (s.withBp v).flat = s.flat := rfl
@[simp] theorem State.withBp_bp (s : State) (v : BpRegs) : (s.withBp v).bp = v := rfl
@[simp] theorem State.withBp_scratch (s : State) (v : BpRegs) : (s.withBp v).scratch = s.scratch := rfl
@[simp] theorem State.withBp_prev (s : State) (v : BpRegs) : (s.withBp v).prev = s.prev := rfl
@[simp] theorem State.withBp_cur (s : State) (v : BpRegs) : (s.withBp v).cur = s.cur := rfl
@[simp] theorem State.withBp_orig (s : State) (v : BpRegs) : (s.withBp v).orig = s.orig := rfl
@[simp] theorem State.withBp_ich (s : State) (v : BpRegs) : (s.withBp v).ich = s.ich := rfl
@[simp] theorem State.withBp_io (s : State) (v : BpRegs) : (s.withBp v).io = s.io := rfl
@[simp] theorem State.withBp_ngChecked (s : State) (v : BpRegs) : (s.withBp v).ngChecked = s.ngChecked := rfl

@[simp] theorem State.withScratch_pending (s : State) (v : Scratch) : (s.withScratch v).pending = s.pending := rfl
@[simp] theorem State.withScratch_port (s : State) (v : Scratch) : (s.withScratch v).port = s.port := rfl
@[simp] theorem State.withScratch_mem (s : State) (v : Scratch) : (s.withScratch v).mem = s.mem := rfl
@[simp] theorem State.withScratch_flatThresh (s : State) (v : Scratch) : (s.withScratch v).flatThresh = s.flatThresh := rfl
@[simp] theorem State.withScratch_st (s : State) (v : Scratch) : (s.withScratch v).st = s.st := rfl
@[simp] theorem State.withScratch_pos (s : State) (v : Scratch) : (s.withScratch v).pos = s.pos := rfl
@[simp] theorem State.withScratch_qp (s : State) (v : Scratch) : (s.withScratch v).qp = s.qp := rfl
@[simp] theorem State.withScratch_buf (s : State) (v : Scratch) : (s.withScratch v).buf = s.buf := rfl
@[simp] theorem State.withScratch_rc (s : State) (v : Scratch) : (s.withScratch v).rc = s.rc := rfl
@[simp] theorem State.withScratch_size (s : State) (v : Scratch) : (s.withScratch v).size = s.size := rfl
@[simp] theorem State.withScratch_mode (s : State) (v : Scratch) : (s.withScratch v).mode = s.mode := rfl
@[simp] theorem State.withScratch_flat (s : State) (v : Scratch) : (s.withScratch v).flat = s.flat := rfl
@[simp] theorem State.withScratch_bp (s : State) (v : Scratch) : (s.withScratch v).bp = s.bp := rfl
@[simp] theorem State.withScratch_scratch (s : State) (v : Scratch) : (s.withScratch v).scratch = v := rfl
@[simp] theorem State.withScratch_prev (s : State) (v : Scratch) : (s.withScratch v).prev = s.prev := rfl
@[simp] theorem State.withScratch_cur (s : State) (v : Scratch) : (s.withScratch v).cur = s.cur := rfl
@[simp] theorem State.withScratch_orig (s : State) (v : Scratch) : (s.withScratch v).orig = s.orig := rfl
@[simp] theorem State.withScratch_ich (s : State) (v : Scratch) : (s.withScratch v).ich = s.ich := rfl
@[simp] theorem State.withScratch_io (s : State) (v : Scratch) : (s.withScratch v).io = s.io := rfl
@[simp] theorem State.withScratch_ngChecked (s : State) (v : Scratch) : (s.withScratch v).ngChecked = s.ngChecked := rfl

@[simp] theorem State.withPrev_pending (s : State) (v : LineBuf) : (s.withPrev v).pending = s.pending := rfl
@[simp] theorem State.withPrev_port (s : State) (v : LineBuf) : (s.withPrev v).port = s.port := rfl
@[simp] theorem State.withPrev_mem (s : State) (v : LineBuf) : (s.withPrev v).mem = s.mem := rfl
@[simp] theorem State.withPrev_flatThresh (s : State) (v : LineBuf) : (s.withPrev v).flatThresh = s.flatThresh := rfl
@[simp] theorem State.withPrev_st (s : State) (v : LineBuf) : (s.withPrev v).st = s.st := rfl
@[simp] theorem State.withPrev_pos (s : State) (v : LineBuf) : (s.withPrev v).pos = s.pos := rfl
@[simp] theorem State.withPrev_qp (s : State) (v : LineBuf) : (s.withPrev v).qp = s.qp := rfl
@[simp] theorem State.withPrev_buf (s : State) (v : LineBuf) : (s.withPrev v).buf = s.buf := rfl
@[simp] theorem State.withPrev_rc (s : State) (v : LineBuf) : (s.withPrev v).rc = s.rc := rfl
@[simp] theorem State.withPrev_size (s : State) (v : LineBuf) : (s.withPrev v).size = s.size := rfl
@[simp] theorem State.withPrev_mode (s : State) (v : LineBuf) : (s.withPrev v).mode = s.mode := rfl
@[simp] theorem State.withPrev_flat (s : State) (v : LineBuf) : (s.withPrev v).flat = s.flat := rfl
@[simp] theorem State.withPrev_bp (s : State) (v : LineBuf) : (s.withPrev v).bp = s.bp := rfl
@[simp] theorem State.withPrev_scratch (s : State) (v : LineBuf) : (s.withPrev v).scratch = s.scratch := rfl
@[simp] theorem State.withPrev_prev (s : State) (v : LineBuf) : (s.withPrev v).prev = v := rfl
@[simp] theorem State.withPrev_cur (s : State) (v : LineBuf) : (s.withPrev v).cur = s.cur := rfl
@[simp] theorem State.withPrev_orig (s : State) (v : LineBuf) : (s.withPrev v).orig = s.orig := rfl
@[simp] theorem State.withPrev_ich (s : State) (v : LineBuf) : (s.withPrev v).ich = s.ich := rfl
@[simp] theorem State.withPrev_io (s : State) (v : LineBuf) : (s.withPrev v).io = s.io := rfl
@[simp] theorem State.withPrev_ngChecked (s : State) (v : LineBuf) : (s.withPrev v).ngChecked = s.ngChecked := rfl

@[simp] theorem State.withCur_pending (s : State) (v : LineBuf) : (s.withCur v).pending = s.pending := rfl
@[simp] theorem State.withCur_port (s : State) (v : LineBuf) : (s.withCur v).port = s.port := rfl
@[simp] theorem State.withCur_mem (s : State) (v : LineBuf) : (s.withCur v).mem = s.mem := rfl
@[simp] theorem State.withCur_flatThresh (s : State) (v : LineBuf) : (s.withCur v).flatThresh = s.flatThresh := rfl
@[simp] theorem State.withCur_st (s : State) (v : LineBuf) : (s.withCur v).st = s.st := rfl
@[simp] theorem State.withCur_pos (s : State) (v : LineBuf) : (s.withCur v).pos = s.pos := rfl
@[simp] theorem State.withCur_qp (s : State) (v : LineBuf) : (s.withCur v).qp = s.qp := rfl
@[simp] theorem State.withCur_buf (s : State) (v : LineBuf) : (s.withCur v).buf = s.buf := rfl
@[simp] theorem State.withCur_rc (s : State) (v : LineBuf) : (s.withCur v).rc = s.rc := rfl
@[simp] theorem State.withCur_size (s : State) (v : LineBuf) : (s.withCur v).size = s.size := rfl
@[simp] theorem State.withCur_mode (s : State) (v : LineBuf) : (s.withCur v).mode = s.mode := rfl
@[simp] theorem State.withCur_flat (s : State) (v : LineBuf) : (s.withCur v).flat = s.flat := rfl
@[simp] theorem State.withCur_bp (s : State) (v : LineBuf) : (s.withCur v).bp = s.bp := rfl
@[simp] theorem State.withCur_scratch (s : State) (v : LineBuf) : (s.withCur v).scratch = s.scratch := rfl
@[simp] theorem State.withCur_prev (s : State) (v : LineBuf) : (s.withCur v).prev = s.prev := rfl
@[simp] theorem State.withCur_cur (s : State) (v : LineBuf) : (s.withCur v).cur = v := rfl
@[simp] theorem State.withCur_orig (s : State) (v : LineBuf) : (s.withCur v).orig = s.orig := rfl
@[simp] theorem State.withCur_ich (s : State) (v : LineBuf) : (s.withCur v).ich = s.ich := rfl
@[simp] theorem State.withCur_io (s : State) (v : LineBuf) : (s.withCur v).io = s.io := rfl
@[simp] theorem State.withCur_ngChecked (s : State) (v : LineBuf) : (s.withCur v).ngChecked = s.ngChecked := rfl

@[simp] theorem State.withOrig_pending (s : State) (v : LineBuf) : (s.withOrig v).pending = s.pending := rfl
@[simp] theorem State.withOrig_port (s : State) (v : LineBuf) : (s.withOrig v).port = s.port := rfl
@[simp] theorem State.withOrig_mem (s : State) (v : LineBuf) : (s.withOrig v).mem = s.mem := rfl
@[simp] theorem State.withOrig_flatThresh (s : State) (v : LineBuf) : (s.withOrig v).flatThresh = s.flatThresh := rfl
@[simp] theorem State.withOrig_st (s : State) (v : LineBuf) : (s.withOrig v).st = s.st := rfl
@[simp] theorem State.withOrig_pos (s : State) (v : LineBuf) : (s.withOrig v).pos = s.pos := rfl
@[simp] theorem State.withOrig_qp (s : State) (v : LineBuf) : (s.withOrig v).qp = s.qp := rfl
@[simp] theorem State.withOrig_buf (s : State) (v : LineBuf) : (s.withOrig v).buf = s.buf := rfl
@[simp] theorem State.withOrig_rc (s : State) (v : LineBuf) : (s.withOrig v).rc = s.rc := rfl
@[simp] theorem State.withOrig_size (s : State) (v : LineBuf) : (s.withOrig v).size = s.size := rfl
@[simp] theorem State.withOrig_mode (s : State) (v : LineBuf) : (s.withOrig v).mode = s.mode := rfl
@[simp] theorem State.withOrig_flat (s : State) (v : LineBuf) : (s.withOrig v).flat = s.flat := rfl
@[simp] theorem State.withOrig_bp (s : State) (v : LineBuf) : (s.withOrig v).bp = s.bp := rfl
@[simp] theorem State.withOrig_scratch (s : State) (v : LineBuf) : (s.withOrig v).scratch = s.scratch := rfl
@[simp] theorem State.withOrig_prev (s : State) (v : LineBuf) : (s.withOrig v).prev = s.prev := rfl
@[simp] theorem State.withOrig_cur (s : State) (v : LineBuf) : (s.withOrig v).cur = s.cur := rfl
@[simp] theorem State.withOrig_orig (s : State) (v : LineBuf) : (s.withOrig v).orig = v := rfl
@[simp] theorem State.withOrig_ich (s : State) (v : LineBuf) : (s.withOrig v).ich = s.ich := rfl
@[simp] theorem State.withOrig_io (s : State) (v : LineBuf) : (s.withOrig v).io = s.io := rfl
@[simp] theorem State.withOrig_ngChecked (s : State) (v : LineBuf) : (s.withOrig v).ngChecked = s.ngChecked := rfl

@[simp] theorem State.withIch_pending (s : State) (v : List IchEntry) : (s.withIch v).pending = s.pending := rfl
@[simp] theorem State.withIch_port (s : State) (v : List IchEntry) : (s.withIch v).port = s.port := rfl
@[simp] theorem State.withIch_mem (s : State) (v : List IchEntry) : (s.withIch v).mem = s.mem := rfl
@[simp] theorem State.withIch_flatThresh (s : State) (v : List IchEntry) : (s.withIch v).flatThresh = s.flatThresh := rfl
@[simp] theorem State.withIch_st (s : State) (v : List IchEntry) : (s.withIch v).st = s.st := rfl
@[simp] theorem State.withIch_pos (s : State) (v : List IchEntry) : (s.withIch v).pos = s.pos := rfl
@[simp] theorem State.withIch_qp (s : State) (v : List IchEntry) : (s.withIch v).qp = s.qp := rfl
@[simp] theorem State.withIch_buf (s : State) (v : List IchEntry) : (s.withIch v).buf = s.buf := rfl
@[simp] theorem State.withIch_rc (s : State) (v : List IchEntry) : (s.withIch v).rc = s.rc := rfl
@[simp] theorem State.withIch_size (s : State) (v : List IchEntry) : (s.withIch v).size = s.size := rfl
@[simp] theorem State.withIch_mode (s : State) (v : List IchEntry) : (s.withIch v).mode = s.mode := rfl
@[simp] theorem State.withIch_flat (s : State) (v : List IchEntry) : (s.withIch v).flat = s.flat := rfl
@[simp] theorem State.withIch_bp (s : State) (v : List IchEntry) : (s.withIch v).bp = s.bp := rfl
@[simp] theorem State.withIch_scratch (s : State) (v : List IchEntry) : (s.withIch v).scratch = s.scratch := rfl
@[simp] theorem State.withIch_prev (s : State) (v : List IchEntry) : (s.withIch v).prev = s.prev := rfl
@[simp] theorem State.withIch_cur (s : State) (v : List IchEntry) : (s.withIch v).cur = s.cur := rfl
@[simp] theorem State.withIch_orig (s : State) (v : List IchEntry) : (s.withIch v).orig = s.orig := rfl
@[simp] theorem State.withIch_ich (s : State) (v : List IchEntry) : (s.withIch v).ich = v := rfl
@[simp] theorem State.withIch_io (s : State) (v : List IchEntry) : (s.withIch v).io = s.io := rfl
@[simp] theorem State.withIch_ngChecked (s : State) (v : List IchEntry) : (s.withIch v).ngChecked = s.ngChecked := rfl

@[simp] theorem State.withIo_pending (s : State) (v : BitIo) : (s.withIo v).pending = s.pending := rfl
@[simp] theorem State.withIo_port (s : State) (v : BitIo) : (s.withIo v).port = s.port := rfl
@[simp] theorem State.withIo_mem (s : State) (v : BitIo) : (s.withIo v).mem = s.mem := rfl
@[simp] theorem State.withIo_flatThresh (s : State) (v : BitIo) : (s.withIo v).flatThresh = s.flatThresh := rfl
@[simp] theorem State.withIo_st (s : State) (v : BitIo) : (s.withIo v).st = s.st := rfl
@[simp] theorem State.withIo_pos (s : State) (v : BitIo) : (s.withIo v).pos = s.pos := rfl
@[simp] theorem State.withIo_qp (s : State) (v : BitIo) : (s.withIo v).qp = s.qp := rfl
@[simp] theorem State.withIo_buf (s : State) (v : BitIo) : (s.withIo v).buf = s.buf := rfl
@[simp] theorem State.withIo_rc (s : State) (v : BitIo) : (s.withIo v).rc = s.rc := rfl
@[simp] theorem State.withIo_size (s : State) (v : BitIo) : (s.withIo v).size = s.size := rfl
@[simp] theorem State.withIo_mode (s : State) (v : BitIo) : (s.withIo v).mode = s.mode := rfl
@[simp] theorem State.withIo_flat (s : State) (v : BitIo) : (s.withIo v).flat = s.flat := rfl
@[simp] theorem State.withIo_bp (s : State) (v : BitIo) : (s.withIo v).bp = s.bp := rfl
@[simp] theorem State.withIo_scratch (s : State) (v : BitIo) : (s.withIo v).scratch = s.scratch := rfl
@[simp] theorem State.withIo_prev (s : State) (v : BitIo) : (s.withIo v).prev = s.prev := rfl
@[simp] theorem State.withIo_cur (s : State) (v : BitIo) : (s.withIo v).cur = s.cur := rfl
@[simp] theorem State.withIo_orig (s : State) (v : BitIo) : (s.withIo v).orig = s.orig := rfl
@[simp] theorem State.withIo_ich (s : State) (v : BitIo) : (s.withIo v).ich = s.ich := rfl
@[simp] theorem State.withIo_io (s : State) (v : BitIo) : (s.withIo v).io = v := rfl
@[simp] theorem State.withIo_ngChecked (s : State) (v : BitIo) : (s.withIo v).ngChecked = s.ngChecked := rfl

@[simp] theorem State.withNgChecked_pending (s : State) (v : BitVec 12) : (s.withNgChecked v).pending = s.pending := rfl
@[simp] theorem State.withNgChecked_port (s : State) (v : BitVec 12) : (s.withNgChecked v).port = s.port := rfl
@[simp] theorem State.withNgChecked_mem (s : State) (v : BitVec 12) : (s.withNgChecked v).mem = s.mem := rfl
@[simp] theorem State.withNgChecked_flatThresh (s : State) (v : BitVec 12) :
    (s.withNgChecked v).flatThresh = s.flatThresh := rfl
@[simp] theorem State.withNgChecked_st (s : State) (v : BitVec 12) : (s.withNgChecked v).st = s.st := rfl
@[simp] theorem State.withNgChecked_pos (s : State) (v : BitVec 12) : (s.withNgChecked v).pos = s.pos := rfl
@[simp] theorem State.withNgChecked_qp (s : State) (v : BitVec 12) : (s.withNgChecked v).qp = s.qp := rfl
@[simp] theorem State.withNgChecked_buf (s : State) (v : BitVec 12) : (s.withNgChecked v).buf = s.buf := rfl
@[simp] theorem State.withNgChecked_rc (s : State) (v : BitVec 12) : (s.withNgChecked v).rc = s.rc := rfl
@[simp] theorem State.withNgChecked_size (s : State) (v : BitVec 12) : (s.withNgChecked v).size = s.size := rfl
@[simp] theorem State.withNgChecked_mode (s : State) (v : BitVec 12) : (s.withNgChecked v).mode = s.mode := rfl
@[simp] theorem State.withNgChecked_flat (s : State) (v : BitVec 12) : (s.withNgChecked v).flat = s.flat := rfl
@[simp] theorem State.withNgChecked_bp (s : State) (v : BitVec 12) : (s.withNgChecked v).bp = s.bp := rfl
@[simp] theorem State.withNgChecked_scratch (s : State) (v : BitVec 12) : (s.withNgChecked v).scratch = s.scratch := rfl
@[simp] theorem State.withNgChecked_prev (s : State) (v : BitVec 12) : (s.withNgChecked v).prev = s.prev := rfl
@[simp] theorem State.withNgChecked_cur (s : State) (v : BitVec 12) : (s.withNgChecked v).cur = s.cur := rfl
@[simp] theorem State.withNgChecked_orig (s : State) (v : BitVec 12) : (s.withNgChecked v).orig = s.orig := rfl
@[simp] theorem State.withNgChecked_ich (s : State) (v : BitVec 12) : (s.withNgChecked v).ich = s.ich := rfl
@[simp] theorem State.withNgChecked_io (s : State) (v : BitVec 12) : (s.withNgChecked v).io = s.io := rfl
@[simp] theorem State.withNgChecked_ngChecked (s : State) (v : BitVec 12) : (s.withNgChecked v).ngChecked = v := rfl

end Machine

end Sys2Proof
end

