-- ==== Sys2Proof/Laws/Act.lean ====
section
/-! SUPPORT. What each shared operation can do, said once: a proof about a command takes the command apart with these
equations and never unfolds an operation. -/

namespace Sys2Proof.Machine

variable {α β : Type}

/-! ### Running a piece -/

@[simp] theorem act_pure (a : α) (s : State) : (pure a : Act α) s = .ok a s := rfl

/-- A piece followed by another: the second runs on what the first leaves, unless the first raises. -/
theorem act_bind (m : Act α) (f : α → Act β) (s : State) :
    (m >>= f) s =
      match m s with
      | .ok a t => f a t
      | .error r t => .error r t := by
  show EStateM.bind m f s = _
  unfold EStateM.bind
  cases m s <;> rfl

theorem act_bind_ok {m : Act α} {f : α → Act β} {s t : State} {a : α} (h : m s = .ok a t) : (m >>= f) s = f a t := by
  rw [act_bind, h]

theorem act_bind_error {m : Act α} {f : α → Act β} {s t : State} {r : Raise} (h : m s = .error r t) :
    (m >>= f) s = .error r t := by
  rw [act_bind, h]

/-- If a sequence answers, both of its parts answered. -/
theorem act_bind_eq_ok {m : Act α} {f : α → Act β} {s t : State} {b : β} :
    (m >>= f) s = .ok b t ↔ ∃ a u, m s = .ok a u ∧ f a u = .ok b t := by
  rw [act_bind]
  cases h : m s <;> simp

/-- If a sequence raises, its first part raised, or its second on what the first left. -/
theorem act_bind_eq_error {m : Act α} {f : α → Act β} {s t : State} {r : Raise} :
    (m >>= f) s = .error r t ↔ m s = .error r t ∨ ∃ a u, m s = .ok a u ∧ f a u = .error r t := by
  rw [act_bind]
  cases h : m s <;> simp

@[simp] theorem act_raise (k : FaultKind) (info : Int) (s : State) :
    (raise k info : Act α) s = .error (raising k info) s := rfl

theorem act_demand (p : State → Bool) (k : FaultKind) (info : State → Int) (s : State) :
    demand p k info s = if p s then .ok () s else .error (raising k (info s)) s := rfl

theorem act_demand_pos {p : State → Bool} {k : FaultKind} {info : State → Int} {s : State} (h : p s = true) :
    demand p k info s = .ok () s := by simp [act_demand, h]

theorem act_demand_neg {p : State → Bool} {k : FaultKind} {info : State → Int} {s : State} (h : p s = false) :
    demand p k info s = .error (raising k (info s)) s := by simp [act_demand, h]

theorem act_sense (f : State → Rd α) (s : State) :
    sense f s =
      match f s with
      | .ok a => .ok a s
      | .error r => .error r s := rfl

theorem act_sense_ok {f : State → Rd α} {s : State} {a : α} (h : f s = .ok a) : sense f s = .ok a s := by
  simp [act_sense, h]

theorem act_sense_error {f : State → Rd α} {s : State} {r : Raise} (h : f s = .error r) : sense f s = .error r s := by
  simp [act_sense, h]

@[simp] theorem act_look (f : State → α) (s : State) : look f s = .ok (f s) s := rfl

@[simp] theorem act_update (f : State → State) (s : State) : update f s = .ok () (f s) := rfl

@[simp] theorem act_writeRes (v : Int) (s : State) : writeRes v s = .ok () (s.setRes v) := rfl

theorem act_fitU (w reg : Nat) (x : Int) (s : State) :
    fitU w reg x s = if 0 ≤ x ∧ x < 2 ^ w then .ok (BitVec.ofInt w x) s else .error (unfit s reg x) s := rfl

theorem act_fitS (reg : Nat) (x : Int) (s : State) :
    fitS reg x s = if -2 ^ 31 ≤ x ∧ x < 2 ^ 31 then .ok (BitVec.ofInt 32 x) s else .error (unfit s reg x) s := rfl

theorem act_putList (ss : Cpnt) (bs : List Bool) (s : State) :
    putList ss bs s =
      if s.io.accepts ss bs.length then .ok bs.length (s.withIo (s.io.put ss bs))
      else .error (raising .bitio ss.toNat) s := rfl

theorem act_getBits (ss : Cpnt) (n : Nat) (s : State) :
    getBits ss n s =
      if n ≤ (s.io.source.get ss).length then
        .ok (ofBits ((s.io.source.get ss).take n))
          (s.withIo { s.io with source := s.io.source.set ss ((s.io.source.get ss).drop n) })
      else .error (raising .bitio ss.toNat) s := rfl

@[simp] theorem forAll_nil (f : α → Act Unit) : forAll f [] = pure () := rfl

theorem forAll_cons (f : α → Act Unit) (a : α) (l : List α) : forAll f (a :: l) = f a >>= fun _ => forAll f l := rfl

@[simp] theorem times_zero (f : Act Unit) : times f 0 = pure () := rfl

theorem times_succ (f : Act Unit) (n : Nat) : times f (n + 1) = f >>= fun _ => times f n := rfl

@[simp] theorem readAll_nil (f : α → Rd β) : readAll f [] = .ok [] := rfl

/-- A list of reads answers when each of them does. -/
theorem readAll_ok {f : α → Rd β} {g : α → β} {l : List α} (h : ∀ a ∈ l, f a = .ok (g a)) : readAll f l = .ok (l.map g) := by
  induction l with
  | nil => rfl
  | cons a l ih =>
    have h1 := h a List.mem_cons_self
    have h2 := ih fun b hb => h b (List.mem_cons_of_mem _ hb)
    simp [readAll, h1, h2, bind, Except.bind]

/-- Three reads answer when each of them does. -/
theorem readTri_ok {f : Idx3 → Rd β} {t : Tri β} (h : ∀ i, f i = .ok (t.get i)) : readTri f = .ok t := by
  have h0 := h .i0
  have h1 := h .i1
  have h2 := h .i2
  simp [readTri, h0, h1, h2, bind, Except.bind]

/-! ### Faults -/

theorem recordFault_of_faulted {r : Raise} {s : State} (h : s.st.faulted = true) : s.recordFault r = s := by
  simp [State.recordFault, h]

theorem recordFault_of_running {r : Raise} {s : State} (h : s.st.faulted = false) :
    s.recordFault r =
      s.withSt { s.st with faulted := true, faultCode := some r.kind, faultInfo := r.info, faultCmd := s.port.cmd } := by
  simp [State.recordFault, h]

@[simp] theorem endSlice_st (s : State) : s.endSlice.st = { s.st with sliceActive := false } := rfl

@[simp] theorem endSlice_mode (s : State) :
    s.endSlice.mode = { s.mode with lineOpen := false, groupPending := false } := rfl

/-- Fault entry changes the status registers and the two mode flags, and nothing else. -/
theorem enterFault_eq (r : Raise) (s : State) :
    s.enterFault r =
      (s.withSt { (s.recordFault r).st with sliceActive := false }).withMode
        { s.mode with lineOpen := false, groupPending := false } := by
  unfold State.enterFault State.endSlice State.recordFault
  split <;> rfl

/-- Fault entry records the fault when none was recorded. -/
theorem enterFault_st_of_running {r : Raise} {s : State} (h : s.st.faulted = false) :
    (s.enterFault r).st =
      { s.st with
        faulted := true, sliceActive := false, faultCode := some r.kind, faultInfo := r.info, faultCmd := s.port.cmd } := by
  rw [enterFault_eq, recordFault_of_running h]
  rfl

/-- Fault entry keeps the first fault. -/
theorem enterFault_st_of_faulted {r : Raise} {s : State} (h : s.st.faulted = true) :
    (s.enterFault r).st = { s.st with sliceActive := false } := by
  rw [enterFault_eq, recordFault_of_faulted h]
  rfl

@[simp] theorem leaveFault_st (s : State) : s.leaveFault.st = { s.st with faulted := false, faultCode := none } := rfl

theorem complete_ok {m : Act Unit} {s t : State} (h : m s = .ok () t) : complete m s = .next t := by
  simp [complete, h]

theorem complete_error {m : Act Unit} {s t : State} {r : Raise} (h : m s = .error r t) :
    complete m s = .next (t.enterFault r) := by
  simp [complete, h]

/-- Everything a command's end can be: a next state, as the command left it or after fault entry. -/
theorem complete_cases (m : Act Unit) (s : State) :
    (∃ t, m s = .ok () t ∧ complete m s = .next t) ∨
      ∃ r t, m s = .error r t ∧ complete m s = .next (t.enterFault r) := by
  unfold complete
  cases h : m s with
  | ok a t => exact .inl ⟨t, by simp, by simp⟩
  | error r t => exact .inr ⟨r, t, by simp, by simp⟩

theorem unlessFaulted_faulted {m : Act Unit} {s : State} (h : s.st.faulted = true) : unlessFaulted m s = .next s := by
  simp [unlessFaulted, h]

theorem unlessFaulted_running {m : Act Unit} {s : State} (h : s.st.faulted = false) :
    unlessFaulted m s = complete m s := by
  simp [unlessFaulted, h]

/-! ### What a piece keeps -/

/-- The state a piece leaves, whether it answers or raises. -/
def leaves (m : Act α) (s : State) : State :=
  match m s with
  | .ok _ t => t
  | .error _ t => t

theorem leaves_ok {m : Act α} {s t : State} {a : α} (h : m s = .ok a t) : leaves m s = t := by simp [leaves, h]

theorem leaves_error {m : Act α} {s t : State} {r : Raise} (h : m s = .error r t) : leaves m s = t := by simp [leaves, h]

/-- A piece keeps a property of the state, whether it answers or raises. -/
def Keeps (P : State → Prop) (m : Act α) : Prop := ∀ s, P s → P (leaves m s)

theorem keeps_pure {P : State → Prop} (a : α) : Keeps P (pure a : Act α) := fun _ h => h

theorem keeps_raise {P : State → Prop} (k : FaultKind) (info : Int) : Keeps P (raise k info : Act α) := fun _ h => h

theorem keeps_demand {P : State → Prop} (p : State → Bool) (k : FaultKind) (info : State → Int) :
    Keeps P (demand p k info) := fun s h => by
  unfold leaves
  rw [act_demand]
  by_cases hp : p s = true <;> simp [hp, h]

theorem keeps_sense {P : State → Prop} (f : State → Rd α) : Keeps P (sense f) := fun s h => by
  unfold leaves
  rw [act_sense]
  cases f s <;> exact h

theorem keeps_look {P : State → Prop} (f : State → α) : Keeps P (look f) := fun _ h => h

theorem keeps_update {P : State → Prop} {f : State → State} (h : ∀ s, P s → P (f s)) : Keeps P (update f) := h

theorem keeps_fitU {P : State → Prop} (w reg : Nat) (x : Int) : Keeps P (fitU w reg x) := fun s h => by
  unfold leaves
  rw [act_fitU]
  by_cases hx : 0 ≤ x ∧ x < 2 ^ w <;> simp [hx, h]

theorem keeps_fitS {P : State → Prop} (reg : Nat) (x : Int) : Keeps P (fitS reg x) := fun s h => by
  unfold leaves
  rw [act_fitS]
  by_cases hx : -2 ^ 31 ≤ x ∧ x < 2 ^ 31
  · rw [if_pos hx]; exact h
  · rw [if_neg hx]; exact h

theorem keeps_bind {P : State → Prop} {m : Act α} {f : α → Act β} (hm : Keeps P m) (hf : ∀ a, Keeps P (f a)) :
    Keeps P (m >>= f) := fun s h => by
  have h1 := hm s h
  unfold leaves at h1 ⊢
  rw [act_bind]
  cases hs : m s with
  | ok a t =>
    rw [hs] at h1
    exact hf a t h1
  | error r t =>
    rw [hs] at h1
    exact h1

theorem keeps_ite {P : State → Prop} {c : Prop} [Decidable c] {m n : Act α} (hm : Keeps P m) (hn : Keeps P n) :
    Keeps P (if c then m else n) := by
  split
  · exact hm
  · exact hn

theorem keeps_forAll {P : State → Prop} {f : α → Act Unit} (h : ∀ a, Keeps P (f a)) (l : List α) : Keeps P (forAll f l) := by
  induction l with
  | nil => exact keeps_pure ()
  | cons a l ih => exact keeps_bind (h a) fun _ => ih

theorem keeps_times {P : State → Prop} {f : Act Unit} (h : Keeps P f) (n : Nat) : Keeps P (times f n) := by
  induction n with
  | zero => exact keeps_pure ()
  | succ n ih => exact keeps_bind h fun _ => ih

/-- Sending bits changes the streams alone. -/
theorem keeps_putList {P : State → Prop} (h : ∀ s io, P s → P (s.withIo io)) (ss : Cpnt) (bs : List Bool) :
    Keeps P (putList ss bs) := fun s hs => by
  unfold leaves
  rw [act_putList]
  split
  · rename_i heq
    split at heq <;> simp_all
    exact heq.2 ▸ h _ _ hs
  · rename_i heq
    split at heq <;> simp_all

/-- Taking bits changes the streams alone. -/
theorem keeps_getBits {P : State → Prop} (h : ∀ s io, P s → P (s.withIo io)) (ss : Cpnt) (n : Nat) :
    Keeps P (getBits ss n) := fun s hs => by
  unfold leaves
  rw [act_getBits]
  split
  · rename_i heq
    split at heq <;> simp_all
    exact heq.2 ▸ h _ _ hs
  · rename_i heq
    split at heq <;> simp_all

theorem keeps_getUnary {P : State → Prop} (h : ∀ s io, P s → P (s.withIo io)) (ss : Cpnt) (n : Nat) :
    Keeps P (getUnary ss n) := by
  induction n with
  | zero => exact keeps_pure 0
  | succ n ih =>
    refine keeps_bind (keeps_getBits h ss 1) fun b => keeps_ite (keeps_pure 0) (keeps_bind ih fun v => keeps_pure _)

/-- A command that ends keeps what its text keeps, when fault entry keeps it too. -/
theorem complete_keeps {P : State → Prop} {m : Act Unit} (hm : Keeps P m) (hf : ∀ s r, P s → P (s.enterFault r))
    {s t : State} (hs : P s) (h : complete m s = .next t) : P t := by
  have h1 := hm s hs
  rcases complete_cases m s with ⟨u, hu, hc⟩ | ⟨r, u, hu, hc⟩
  · rw [hc] at h
    rw [leaves_ok hu] at h1
    injection h with h
    exact h ▸ h1
  · rw [hc] at h
    rw [leaves_error hu] at h1
    injection h with h
    exact h ▸ hf u r h1

theorem unlessFaulted_keeps {P : State → Prop} {m : Act Unit} (hm : Keeps P m) (hf : ∀ s r, P s → P (s.enterFault r))
    {s t : State} (hs : P s) (h : unlessFaulted m s = .next t) : P t := by
  unfold unlessFaulted at h
  split at h
  · injection h with h
    exact h ▸ hs
  · exact complete_keeps hm hf hs h

end Sys2Proof.Machine
end

