-- ==== Sys2Proof/Laws/Bits.lean ====
section
/-! SUPPORT. The laws of bit strings and of the word's fields. -/

namespace Sys2Proof.Machine

@[simp] theorem toBits_length (n v : Nat) : (toBits n v).length = n := by
  induction n generalizing v with
  | zero => rfl
  | succ n ih => simp [toBits, ih]

theorem ofBits_append_one (bs : List Bool) (b : Bool) : ofBits (bs ++ [b]) = 2 * ofBits bs + b.toNat := by
  simp [ofBits, List.foldl_append]

@[simp] theorem ofBits_nil : ofBits [] = 0 := rfl

theorem unaryBits_length (v vmax : Nat) (h : v ≤ vmax) : (unaryBits v vmax).length = unaryLen v vmax := by
  unfold unaryBits unaryLen
  split
  · simp
  · simp
    omega

end Sys2Proof.Machine

namespace Sys2Proof

/-- The fields of a word that `wordOf` puts together from fields that fit. -/
theorem fieldsOf_wordOf (op cpnt sel idx : Nat) (ho : op < 32) (hc : cpnt < 4) (hs : sel < 8) (hi : idx < 65536) :
    fieldsOf (wordOf op cpnt sel idx) = { op := op, cpnt := cpnt, sel := sel, rsv := 0, idx := idx } := by
  have hlt : op * 2 ^ 27 + cpnt * 2 ^ 25 + sel * 2 ^ 22 + idx < 2 ^ 32 := by omega
  have hn : (wordOf op cpnt sel idx).toNat = op * 2 ^ 27 + cpnt * 2 ^ 25 + sel * 2 ^ 22 + idx := by
    simp only [wordOf, BitVec.toNat_ofNat]
    omega
  simp only [fieldsOf, bitSlice, hn, Fields.mk.injEq]
  omega

end Sys2Proof
end

