-- ==== Sys2Proof/Laws/Memory.lean ====
section
/-! SUPPORT. The laws of stores and of the PPS image: what a read gives after a write, and that every operation keeps the
canonical form. -/

namespace Sys2Proof.Machine

variable {α : Type}

@[simp] theorem storeRead_nil (a : Nat) : storeRead ([] : Store α) a = none := rfl

theorem storeRead_cons (p : Nat × α) (m : Store α) (a : Nat) :
    storeRead (p :: m) a = if p.1 = a then some p.2 else storeRead m a := rfl

/-- A read after a write, of the written address and of any other. -/
theorem storeRead_storeWrite (m : Store α) (a b : Nat) (v : α) :
    storeRead (storeWrite m a v) b = if b = a then some v else storeRead m b := by
  induction m with
  | nil =>
    by_cases h : b = a
    · simp [storeWrite, storeRead, h]
    · have : ¬ a = b := fun e => h e.symm
      simp [storeWrite, storeRead, h, this]
  | cons p m ih =>
    obtain ⟨k, x⟩ := p
    simp only [storeWrite]
    split
    · by_cases h : b = a
      · simp [storeRead, h]
      · have : ¬ a = b := fun e => h e.symm
        simp [storeRead, h, this]
    · split
      · rename_i hak
        by_cases h : b = a
        · simp [storeRead, h]
        · have h1 : ¬ a = b := fun e => h e.symm
          have h2 : ¬ k = b := fun e => h (by omega)
          simp [storeRead, h, h1, h2]
      · simp only [storeRead, ih]
        by_cases h : b = a
        · subst h
          have : ¬ k = b := fun e => by omega
          simp [this]
        · simp [h]

@[simp] theorem storeRead_storeWrite_self (m : Store α) (a : Nat) (v : α) : storeRead (storeWrite m a v) a = some v := by
  simp [storeRead_storeWrite]

theorem storeRead_storeWrite_ne (m : Store α) {a b : Nat} (v : α) (h : b ≠ a) :
    storeRead (storeWrite m a v) b = storeRead m b := by simp [storeRead_storeWrite, h]

/-- The addresses a write can list. -/
theorem mem_storeWrite {m : Store α} {a : Nat} {v : α} {p : Nat × α} (h : p ∈ storeWrite m a v) : p = (a, v) ∨ p ∈ m := by
  induction m with
  | nil => simpa [storeWrite] using h
  | cons q m ih =>
    obtain ⟨k, x⟩ := q
    simp only [storeWrite] at h
    split at h
    · simpa using h
    · split at h
      · rcases List.mem_cons.1 h with h | h
        · exact .inl h
        · exact .inr (List.mem_cons_of_mem _ h)
      · rcases List.mem_cons.1 h with h | h
        · exact .inr (h ▸ List.mem_cons_self)
        · rcases ih h with h | h
          · exact .inl h
          · exact .inr (List.mem_cons_of_mem _ h)

theorem storeWf_cons {p : Nat × α} {m : Store α} : storeWf (p :: m) ↔ (∀ q ∈ m, p.1 < q.1) ∧ storeWf m := by
  simp [storeWf, List.pairwise_cons]

/-- A write keeps the canonical form. -/
theorem storeWrite_wf (m : Store α) (a : Nat) (v : α) (h : storeWf m) : storeWf (storeWrite m a v) := by
  induction m with
  | nil => simp [storeWrite, storeWf]
  | cons p m ih =>
    obtain ⟨k, x⟩ := p
    obtain ⟨hk, hm⟩ := storeWf_cons.1 h
    simp only [storeWrite]
    split
    · rename_i hlt
      refine storeWf_cons.2 ⟨fun q hq => ?_, h⟩
      rcases List.mem_cons.1 hq with rfl | hq
      · exact hlt
      · exact lt_trans hlt (hk q hq)
    · split
      · subst_vars
        exact storeWf_cons.2 ⟨hk, hm⟩
      · refine storeWf_cons.2 ⟨fun q hq => ?_, ih hm⟩
        rcases mem_storeWrite hq with rfl | hq
        · show k < a
          omega
        · exact hk q hq

theorem mem_storeErase {m : Store α} {a : Nat} {p : Nat × α} (h : p ∈ storeErase m a) : p ∈ m := by
  induction m with
  | nil => simp [storeErase] at h
  | cons q m ih =>
    obtain ⟨k, x⟩ := q
    simp only [storeErase] at h
    split at h
    · exact List.mem_cons_of_mem _ h
    · rcases List.mem_cons.1 h with h | h
      · exact h ▸ List.mem_cons_self
      · exact List.mem_cons_of_mem _ (ih h)

/-- Taking an address off the list keeps the canonical form. -/
theorem storeErase_wf (m : Store α) (a : Nat) (h : storeWf m) : storeWf (storeErase m a) := by
  induction m with
  | nil => simp [storeErase, storeWf]
  | cons p m ih =>
    obtain ⟨k, x⟩ := p
    obtain ⟨hk, hm⟩ := storeWf_cons.1 h
    simp only [storeErase]
    split
    · exact hm
    · exact storeWf_cons.2 ⟨fun q hq => hk q (mem_storeErase hq), ih hm⟩

theorem storeRead_eq_none {m : Store α} {a : Nat} (h : ∀ p ∈ m, p.1 ≠ a) : storeRead m a = none := by
  induction m with
  | nil => rfl
  | cons p m ih =>
    rw [storeRead_cons, if_neg (h p List.mem_cons_self)]
    exact ih fun q hq => h q (List.mem_cons_of_mem _ hq)

/-- A read after an address is taken off the list. -/
theorem storeRead_storeErase (m : Store α) (a b : Nat) (h : storeWf m) :
    storeRead (storeErase m a) b = if b = a then none else storeRead m b := by
  induction m with
  | nil => simp [storeErase]
  | cons p m ih =>
    obtain ⟨k, x⟩ := p
    obtain ⟨hk, hm⟩ := storeWf_cons.1 h
    simp only [storeErase]
    split
    · rename_i hka
      subst hka
      by_cases hb : b = k
      · rw [if_pos hb]
        exact storeRead_eq_none fun q hq => by have := hk q hq; simp only at this; omega
      · have : ¬ k = b := fun e => hb e.symm
        simp [storeRead_cons, hb, this]
    · rename_i hka
      rw [storeRead_cons, storeRead_cons, ih hm]
      by_cases hb : b = a
      · subst hb
        simp [hka]
      · simp [hb]

/-- A listed element is what its address reads as. -/
theorem storeRead_of_mem {m : Store α} (h : storeWf m) {p : Nat × α} (hp : p ∈ m) : storeRead m p.1 = some p.2 := by
  induction m with
  | nil => simp at hp
  | cons q m ih =>
    obtain ⟨hk, hm⟩ := storeWf_cons.1 h
    rw [storeRead_cons]
    rcases List.mem_cons.1 hp with rfl | hp
    · simp
    · have := hk p hp
      rw [if_neg (by omega)]
      exact ih hm hp

theorem mem_of_storeRead {m : Store α} {a : Nat} {v : α} (h : storeRead m a = some v) : (a, v) ∈ m := by
  induction m with
  | nil => simp at h
  | cons q m ih =>
    obtain ⟨k, x⟩ := q
    rw [storeRead_cons] at h
    split at h
    · simp_all
    · exact List.mem_cons_of_mem _ (ih h)

/-- Writing an address twice is writing the second value. -/
theorem storeWrite_storeWrite_self (m : Store α) (a : Nat) (v w : α) :
    storeWrite (storeWrite m a v) a w = storeWrite m a w := by
  induction m with
  | nil => simp [storeWrite]
  | cons p m ih =>
    obtain ⟨k, x⟩ := p
    simp only [storeWrite]
    split
    · simp [storeWrite]
    · split
      · simp [storeWrite]
      · rename_i h1 h2
        simp [storeWrite, h1, h2, ih]

/-- Two stores in canonical form that read alike are equal. -/
theorem store_ext {m n : Store α} (hm : storeWf m) (hn : storeWf n) (h : ∀ a, storeRead m a = storeRead n a) : m = n := by
  induction m generalizing n with
  | nil =>
    cases n with
    | nil => rfl
    | cons q n =>
      have := h q.1
      simp [storeRead_cons] at this
  | cons p m ih =>
    obtain ⟨hp, hm'⟩ := storeWf_cons.1 hm
    cases n with
    | nil =>
      have := h p.1
      simp [storeRead_cons] at this
    | cons q n =>
      obtain ⟨hq, hn'⟩ := storeWf_cons.1 hn
      have low : ∀ {m : Store α} {p : Nat × α}, (∀ q ∈ m, p.1 < q.1) → ∀ a, a ≤ p.1 → storeRead m a = none :=
        fun hp a ha => storeRead_eq_none fun r hr => by have := hp r hr; omega
      have hk : p.1 = q.1 := by
        rcases lt_trichotomy p.1 q.1 with hlt | heq | hgt
        · have := h p.1
          rw [storeRead_cons, storeRead_cons, if_pos rfl, if_neg (by omega), low hq p.1 (by omega)] at this
          simp at this
        · exact heq
        · have := h q.1
          rw [storeRead_cons, storeRead_cons, if_pos rfl, if_neg (by omega), low hp q.1 (by omega)] at this
          simp at this
      have hv : p.2 = q.2 := by
        have := h p.1
        rw [storeRead_cons, storeRead_cons, if_pos rfl, if_pos hk.symm] at this
        simpa using this
      have hpq : p = q := Prod.ext hk hv
      subst hpq
      congr 1
      refine ih hm' hn' fun a => ?_
      have := h a
      rw [storeRead_cons, storeRead_cons] at this
      by_cases ha : p.1 = a
      · rw [low hp a (by omega), low hq a (by omega)]
      · simpa [ha] using this

/-- Every byte write keeps the canonical form of the PPS image. -/
theorem memWrite_wf (m : Memory) (i : Nat) (v : Byte) (h : Memory.wf m) : Memory.wf (memWrite m i v) := by
  obtain ⟨hs, hv⟩ := h
  unfold memWrite
  split
  · exact ⟨storeErase_wf m i hs, fun p hp => hv p (mem_storeErase hp)⟩
  · rename_i hne
    refine ⟨storeWrite_wf m i v hs, fun p hp => ?_⟩
    rcases mem_storeWrite hp with rfl | hp
    · exact hne
    · exact hv p hp

/-- A byte read after a byte write. -/
theorem memRead_memWrite (m : Memory) (i j : Nat) (v : Byte) (h : Memory.wf m) :
    memRead (memWrite m i v) j = if j = i then v else memRead m j := by
  unfold memRead memWrite
  split
  · rw [storeRead_storeErase m i j h.1]
    by_cases hj : j = i <;> simp [*]
  · rw [storeRead_storeWrite]
    by_cases hj : j = i <;> simp [hj]

/-- The image at reset is in canonical form. -/
theorem reset_mem_wf : Memory.wf State.reset.mem := by simp [State.reset, Memory.wf, storeWf]

@[simp] theorem memRead_nil (i : Nat) : memRead [] i = 0 := rfl

end Sys2Proof.Machine
end

