-- ==== Sys2Proof/Laws/Ops.lean ====
section
/-! SUPPORT. The laws of the line-buffer operations, of the numbered register arrays, of the clamps and of the level
tables. -/

namespace Sys2Proof.Machine

/-- A line-buffer element after a write: the written one, or as before. -/
theorem storeRead_writeCell (b : LineBuf) (c c' : Cpnt) (i i' : Nat) (v : Sample) :
    storeRead ((writeCell b c i v).get c') i' = if c' = c ∧ i' = i then some v else storeRead (b.get c') i' := by
  unfold writeCell
  rw [Tri.get_set]
  by_cases hc : c' = c
  · subst hc
    simp [storeRead_storeWrite]
  · simp [hc]

/-- A line-buffer write keeps the canonical form. -/
theorem writeCell_wf {b : LineBuf} (h : ∀ c, storeWf (b.get c)) (c : Cpnt) (i : Nat) (v : Sample) (c' : Cpnt) :
    storeWf ((writeCell b c i v).get c') := by
  unfold writeCell
  rw [Tri.get_set]
  by_cases hc : c' = c
  · rw [if_pos hc]
    exact storeWrite_wf _ _ _ (h c)
  · rw [if_neg hc]
    exact h c'

/-- A read of an element, by what its store holds. -/
theorem readCell_some {sp : UninitSpace} {b : LineBuf} {c : Cpnt} {i : Nat} {v : Sample}
    (h : storeRead (b.get c) i = some v) : readCell sp b c i = .ok (v.toNat : Int) := by
  simp [readCell, h]

theorem readCell_none {sp : UninitSpace} {b : LineBuf} {c : Cpnt} {i : Nat} (h : storeRead (b.get c) i = none) :
    readCell sp b c i = .error (uninitAt sp c.toNat i) := by
  simp [readCell, h]

/-- Registers 0 to n-1 of a filled array hold the value. -/
theorem fillPrefix_getD {α : Type} (n : Nat) (v d : α) (l : List α) {g : Nat} (h : g < n) :
    (fillPrefix n v l).getD g d = v := by
  simp [fillPrefix, List.getD_eq_getElem?_getD, List.getElem?_append, h]

/-- Registers 0 to n-1 of a copied array hold the source's. -/
theorem copyPrefix_getD {α : Type} (n : Nat) (d : α) (src dst : List α) {g : Nat} (h : g < n) :
    (copyPrefix d n src dst).getD g d = src.getD g d := by
  simp [copyPrefix, List.getD_eq_getElem?_getD, List.getElem?_append, h]

/-- Registers n and above of a filled or a copied array hold what they held. -/
theorem fillPrefix_getD_of_le {α : Type} (n : Nat) (v d : α) (l : List α) {g : Nat} (h : n ≤ g) :
    (fillPrefix n v l).getD g d = l.getD g d := by
  have h' : n + (g - n) = g := by omega
  simp [fillPrefix, List.getD_eq_getElem?_getD, List.getElem?_append, Nat.not_lt.2 h, h']

theorem copyPrefix_getD_of_le {α : Type} (n : Nat) (d : α) (src dst : List α) {g : Nat} (h : n ≤ g) :
    (copyPrefix d n src dst).getD g d = dst.getD g d := by
  have h' : n + (g - n) = g := by omega
  simp [copyPrefix, List.getD_eq_getElem?_getD, List.getElem?_append, Nat.not_lt.2 h, h']

/-- A register of an array after one is written. -/
theorem listSet_getD {α : Type} (d : α) (l : List α) (g j : Nat) (v : α) :
    (listSet d l g v).getD j d = if j = g then v else l.getD j d := by
  unfold listSet
  split
  · rename_i h
    by_cases hj : j = g
    · subst hj
      simp [List.getD_eq_getElem?_getD, h]
    · have : ¬ g = j := fun e => hj e.symm
      simp [List.getD_eq_getElem?_getD, hj, this]
  · rename_i h
    simp only [List.getD_eq_getElem?_getD, List.append_assoc, List.getElem?_append, List.length_replicate,
      List.getElem?_replicate]
    by_cases hj : j = g
    · subst hj
      have h1 : ¬ j < l.length := h
      simp [h1]
    · by_cases hl : j < l.length
      · simp [hl, hj]
      · by_cases hg : j < g
        · have h1 : j - l.length < g - l.length := by omega
          simp [hl, hj, h1]
        · have h1 : ¬ j - l.length < g - l.length := by omega
          have h2 : 1 ≤ j - l.length - (g - l.length) := by omega
          simp [hl, hj, h1, List.getElem?_eq_none, h2]

theorem le_clampInt {x lo hi : Int} (h : lo ≤ hi) : lo ≤ clampInt x lo hi := by
  unfold clampInt
  omega

theorem clampInt_le (x lo hi : Int) : clampInt x lo hi ≤ hi := by
  unfold clampInt
  omega

theorem clampInt_of_mem {x lo hi : Int} (h1 : lo ≤ x) (h2 : x ≤ hi) : clampInt x lo hi = x := by
  unfold clampInt
  omega

/-- The luma tables in closed form (41_quantizer.md R231). -/
theorem qlutLuma_get {b n : Nat} (hb : b = 8 ∨ b = 10 ∨ b = 12) (hn : n ≤ maxQp b) : (qlutLuma b)[n]? = some (n / 2) := by
  rcases hb with rfl | rfl | rfl <;> simp only [maxQp] at hn <;> revert n <;> decide

/-- The chroma tables in closed form (41_quantizer.md R231). -/
theorem qlutChroma_get {b n : Nat} (hb : b = 8 ∨ b = 10 ∨ b = 12) (hn : n ≤ maxQp b) :
    (qlutChroma b)[n]? = some (if n < 2 then n else n / 2 + 1) := by
  rcases hb with rfl | rfl | rfl <;> simp only [maxQp] at hn <;> revert n <;> decide

/-- Inserting a pixel keeps the number of entries. -/
theorem ichInsert_length (n : Nat) (p : Tri Sample) (l : List IchEntry) (h0 : 1 ≤ n) (hn : n ≤ l.length) :
    (ichInsert n p l).length = l.length := by
  have hj : ((l.take n).findIdx? (fun e => e.holds p)).getD (n - 1) < n := by
    cases h : (l.take n).findIdx? (fun e => e.holds p) with
    | none => simp; omega
    | some j =>
      obtain ⟨hlt, -⟩ := List.findIdx?_eq_some_iff_getElem.1 h
      simp only [List.length_take] at hlt
      simp only [Option.getD_some]
      omega
  simp only [ichInsert, List.length_cons, List.length_append, List.length_take, List.length_drop]
  omega

end Sys2Proof.Machine
end

