-- ==== Sys2Proof/Laws/PerInstr.lean ====
section
/-! SUPPORT. Laws stated per command. EncodedOp: the word of a well-formed command holds its opcode, and its reserved bits
are 0 (30_encoding.md R131, R134). -/

namespace Sys2Proof.Laws.EncodedOp

/-- The opcode of a command in the opcode map (30_encoding.md R134). -/
def opcodeOf : Instr → Nat
  | .nop => 0x00
  | .cfgWr _ => 0x01
  | .cfgCheck => 0x02
  | .sliceStart _ => 0x03
  | .lineStart => 0x04
  | .lineEnd => 0x05
  | .origWr _ _ => 0x06
  | .pixRd _ _ => 0x07
  | .regRd _ => 0x08
  | .mapq _ => 0x09
  | .quant => 0x0A
  | .dequant => 0x0B
  | .rsize => 0x0C
  | .recon _ => 0x0D
  | .pred _ _ _ => 0x0E
  | .midpoint _ _ => 0x0F
  | .ichLookup _ _ => 0x10
  | .ichTest _ => 0x11
  | .ichPick _ => 0x12
  | .flatDetect _ => 0x13
  | .psizeAdj _ => 0x14
  | .encGroup => 0x15
  | .decGroup => 0x16
  | .rcUpdate => 0x17

/-- The word of a well-formed command has the command's opcode and reserved bits 0. -/
def Statement (i : Instr) : Prop :=
  i.wf = true → (fieldsOf (encode i)).op = opcodeOf i ∧ (fieldsOf (encode i)).rsv = 0

theorem idx_lt {n : Nat} (h : idxFits n = true) : n < 65536 := by simpa [idxFits] using h

theorem cpnt_lt (c : Cpnt) : c.toNat < 4 := by cases c <;> decide

theorem sel_lt (p : PredClass) : p.toNat < 8 := by cases p <;> decide

theorem of_fields {op c sel idx : Nat} (ho : op < 32) (hc : c < 4) (hs : sel < 8) (hi : idx < 65536) :
    (fieldsOf (wordOf op c sel idx)).op = op ∧ (fieldsOf (wordOf op c sel idx)).rsv = 0 := by
  rw [fieldsOf_wordOf op c sel idx ho hc hs hi]
  exact ⟨rfl, rfl⟩

theorem nop : Statement .nop := fun _ => by decide
theorem cfgWr (idx : Nat) : Statement (.cfgWr idx) := fun h =>
  of_fields (by decide) (by decide) (by decide) (idx_lt h)
theorem cfgCheck : Statement .cfgCheck := fun _ => by decide
theorem sliceStart (d : Bool) : Statement (.sliceStart d) := fun _ => by cases d <;> decide
theorem lineStart : Statement .lineStart := fun _ => by decide
theorem lineEnd : Statement .lineEnd := fun _ => by decide
theorem origWr (c : Cpnt) (i : Nat) : Statement (.origWr c i) := fun h =>
  of_fields (by decide) (cpnt_lt c) (by decide) (idx_lt h)
theorem pixRd (c : Cpnt) (i : Nat) : Statement (.pixRd c i) := fun h =>
  of_fields (by decide) (cpnt_lt c) (by decide) (idx_lt h)
theorem regRd (idx : Nat) : Statement (.regRd idx) := fun h =>
  of_fields (by decide) (by decide) (by decide) (idx_lt h)
theorem mapq (c : Cpnt) : Statement (.mapq c) := fun _ => by cases c <;> decide
theorem quant : Statement .quant := fun _ => by decide
theorem dequant : Statement .dequant := fun _ => by decide
theorem rsize : Statement .rsize := fun _ => by decide
theorem recon (c : Cpnt) : Statement (.recon c) := fun _ => by cases c <;> decide
theorem pred (c : Cpnt) (p : PredClass) (h : Nat) : Statement (.pred c p h) := fun hw =>
  of_fields (by decide) (cpnt_lt c) (sel_lt p) (idx_lt hw)
theorem midpoint (c : Cpnt) (gs : Nat) : Statement (.midpoint c gs) := fun h =>
  of_fields (by decide) (cpnt_lt c) (by decide) (idx_lt h)
theorem ichLookup (c : Cpnt) (k : Nat) : Statement (.ichLookup c k) := fun h =>
  of_fields (by decide) (cpnt_lt c) (by decide) (idx_lt h)
theorem ichTest (gs : Nat) : Statement (.ichTest gs) := fun h =>
  of_fields (by decide) (by decide) (by decide) (idx_lt h)
theorem ichPick (h : Nat) : Statement (.ichPick h) := fun hw =>
  of_fields (by decide) (by decide) (by decide) (idx_lt hw)
theorem flatDetect (gs : Nat) : Statement (.flatDetect gs) := fun h =>
  of_fields (by decide) (by decide) (by decide) (idx_lt h)
theorem psizeAdj (c : Cpnt) : Statement (.psizeAdj c) := fun _ => by cases c <;> decide
theorem encGroup : Statement .encGroup := fun _ => by decide
theorem decGroup : Statement .decGroup := fun _ => by decide
theorem rcUpdate : Statement .rcUpdate := fun _ => by decide

end Sys2Proof.Laws.EncodedOp
end

