-- ==== Sys2Proof/Safety.lean ====
section
/-! DEFINITION. What counts as a good state and a good result, in the terms the statements use: the state after a fault
and after a result, written out field by field; which states accept a command (70_reset_and_hazards.md R482); a legal
configuration (10_state.md R33); the invariants; and the values of a rate-control update in closed form. Nothing here is
called by a meaning. -/

namespace Sys2Proof.Machine

/-! ### Results and faults -/

/-- The state with `res` replaced, and nothing else (30_encoding.md R130). -/
def State.withResult (s : State) (v : Int) : State :=
  { s with port := { s.port with res := BitVec.ofInt 32 v } }

/-- The state after `raise F(info)`, field by field (60_exceptions.md R443, R444). -/
def State.afterFault (s : State) (k : FaultKind) (info : Int) : State :=
  { s with
    st :=
      if s.st.faulted = true then { s.st with sliceActive := false }
      else
        { s.st with
          faulted := true
          faultCode := some k
          faultInfo := BitVec.ofInt 32 info
          faultCmd := s.port.cmd
          sliceActive := false }
    mode := { s.mode with lineOpen := false, groupPending := false } }

/-- The block is not halted (60_exceptions.md R444). -/
abbrev State.running (s : State) : Prop := s.st.faulted = false

/-- A slice is active or done (30_encoding.md R134). -/
abbrev State.inSlice (s : State) : Prop := s.st.sliceActive = true ∨ s.st.sliceDone = true

/-- An encoder slice is active (30_encoding.md R132 check 6). -/
abbrev State.encoding (s : State) : Prop := s.st.sliceActive = true ∧ s.st.isEncoder = true

/-- A decoder slice is active (30_encoding.md R132 check 6). -/
abbrev State.decoding (s : State) : Prop := s.st.sliceActive = true ∧ s.st.isEncoder = false

/-! ### Which states accept a command -/

/-- The rows of the table of 70_reset_and_hazards.md R482. -/
inductive CommandRow where
  | anyState
  | config
  | start
  | quantizer
  | reader
  | encoder
  | decoder
  | sequencing
  deriving DecidableEq, Repr

/-- The row of a command (70_reset_and_hazards.md R482). -/
def rowOf : Instr → CommandRow
  | .nop => .anyState
  | .cfgWr _ => .config
  | .cfgCheck => .config
  | .sliceStart _ => .start
  | .lineStart => .sequencing
  | .lineEnd => .sequencing
  | .origWr _ _ => .encoder
  | .pixRd _ _ => .reader
  | .regRd _ => .anyState
  | .mapq _ => .quantizer
  | .quant => .quantizer
  | .dequant => .quantizer
  | .rsize => .quantizer
  | .recon _ => .quantizer
  | .pred _ _ _ => .reader
  | .midpoint _ _ => .reader
  | .ichLookup _ _ => .reader
  | .ichTest _ => .encoder
  | .ichPick _ => .encoder
  | .flatDetect _ => .encoder
  | .psizeAdj _ => .reader
  | .encGroup => .encoder
  | .decGroup => .decoder
  | .rcUpdate => .sequencing

/-- A command that the halted block still executes (60_exceptions.md R444). -/
def runsHalted (i : Instr) : Bool := rowOf i == .anyState || rowOf i == .config || rowOf i == .start

/-- The `idx` that `F_CFG_LOCKED` records (60_exceptions.md R442). -/
def lockedIndex : Instr → Nat
  | .cfgWr idx => idx
  | _ => 0

/-- The fault and its `FAULT_INFO` that the table of 70_reset_and_hazards.md R482 names for a command in a state that is
not faulted; none where the command's own rule decides. -/
def tableFault (i : Instr) (s : State) : Option (FaultKind × Int) :=
  match rowOf i with
  | .anyState => none
  | .config => if s.st.sliceActive = true then some (.cfgLocked, lockedIndex i) else none
  | .start =>
    if s.st.sliceActive = true then some (.cfgLocked, 0)
    else if s.st.cfgValid = true then none
    else some (.sequence, 0)
  | .quantizer => if s.st.cfgValid = true then none else some (.notActive, 0)
  | .reader => if s.st.sliceActive = true ∨ s.st.sliceDone = true then none else some (.notActive, 0)
  | .encoder =>
    if s.st.sliceActive = true ∧ s.st.isEncoder = true then none else some (.illegalCmd, s.port.cmd.toInt)
  | .decoder =>
    if s.st.sliceActive = true ∧ s.st.isEncoder = false then none else some (.illegalCmd, s.port.cmd.toInt)
  | .sequencing =>
    if s.st.sliceActive = true then none
    else if s.st.sliceDone = true then some (.sequence, 0)
    else some (.notActive, 0)

/-! ### A legal configuration -/

/-- Every field of the PPS image has a legal value (10_state.md R33, 45_sequencing.md R413). -/
structure LegalConfig (s : State) : Prop where
  versionMajor : s.cfg .versionMajor = 1
  versionMinor : s.cfg .versionMinor = 1
  bitsPerComponent : s.bpc = 8 ∨ s.bpc = 10 ∨ s.bpc = 12
  linebufDepth : 8 ≤ s.cfg .linebufDepth ∧ s.cfg .linebufDepth ≤ 15
  enable422 : s.cfg .enable422 = 0
  bitsPerPixel : 1 ≤ s.cfg .bitsPerPixel ∧ s.cfg .bitsPerPixel ≤ 1023
  sliceHeight : 1 ≤ s.cfg .sliceHeight
  sliceWidth : 1 ≤ s.cfg .sliceWidth ∧ s.cfg .sliceWidth ≤ 8192
  picHeight : s.cfg .sliceHeight ≤ s.cfg .picHeight
  picWidth : s.cfg .sliceWidth ≤ s.cfg .picWidth
  chunkSize : 1 ≤ s.cfg .chunkSize
  initialScale : 8 ≤ s.cfg .initialScaleValue ∧ s.cfg .initialScaleValue ≤ 63
  rcModelSize : 1 ≤ s.cfg .rcModelSize
  initialOffset : s.cfg .initialOffset ≤ s.cfg .rcModelSize
  finalOffset : s.cfg .finalOffset ≤ s.cfg .rcModelSize
  flatnessMinQp : s.cfg .flatnessMinQp ≤ maxQp s.bpc
  flatnessMaxQp : s.cfg .flatnessMaxQp ≤ maxQp s.bpc
  thresholdsRise : ∀ i < 13, s.cfg (.rcBufThresh i) < s.cfg (.rcBufThresh (i + 1))
  lastThreshold : s.cfg (.rcBufThresh 13) * 64 < s.cfg .rcModelSize
  rangeMaxLegal : ∀ j < 15, s.cfg (.rangeMaxQp j) ≤ maxQp s.bpc
  rangeOrdered : ∀ j < 15, s.cfg (.rangeMinQp j) ≤ s.cfg (.rangeMaxQp j)
  rangeMinRises : ∀ j < 14, s.cfg (.rangeMinQp j) ≤ s.cfg (.rangeMinQp (j + 1))
  rangeMaxRises : ∀ j < 14, s.cfg (.rangeMaxQp j) ≤ s.cfg (.rangeMaxQp (j + 1))

/-- One check of `CFG_CHECK`: whether it passes, its fault, and the field it records, or both fields of a failing pair of
one row, of which the spec does not say which (log entry 4). -/
structure FieldCheck where
  ok : Bool
  kind : FaultKind
  fields : List PpsField
  deriving DecidableEq, Repr

/-- The checks of `CFG_CHECK` in the order of 45_sequencing.md R413, its points 1 to 11. -/
def fieldChecks (s : State) : List FieldCheck :=
  [⟨s.cfg .versionMajor = 1, .cfgRange, [.versionMajor]⟩,
    ⟨s.cfg .versionMinor = 1, .cfgRange, [.versionMinor]⟩,
    ⟨s.bpc ∈ [8, 10, 12], .cfgRange, [.bitsPerComponent]⟩,
    ⟨8 ≤ s.cfg .linebufDepth ∧ s.cfg .linebufDepth ≤ 15, .cfgRange, [.linebufDepth]⟩,
    ⟨s.cfg .enable422 = 0, .cfgUnsupported, [.enable422]⟩,
    ⟨1 ≤ s.cfg .bitsPerPixel ∧ s.cfg .bitsPerPixel ≤ 1023, .cfgRange, [.bitsPerPixel]⟩,
    ⟨1 ≤ s.cfg .sliceHeight, .cfgRange, [.sliceHeight]⟩,
    ⟨1 ≤ s.cfg .sliceWidth ∧ s.cfg .sliceWidth ≤ 8192, .cfgRange, [.sliceWidth]⟩,
    ⟨s.cfg .sliceHeight ≤ s.cfg .picHeight, .cfgRange, [.picHeight]⟩,
    ⟨s.cfg .sliceWidth ≤ s.cfg .picWidth, .cfgRange, [.picWidth]⟩,
    ⟨1 ≤ s.cfg .chunkSize, .cfgRange, [.chunkSize]⟩,
    ⟨8 ≤ s.cfg .initialScaleValue ∧ s.cfg .initialScaleValue ≤ 63, .cfgRange, [.initialScaleValue]⟩,
    ⟨1 ≤ s.cfg .rcModelSize, .cfgRange, [.rcModelSize]⟩,
    ⟨s.cfg .initialOffset ≤ s.cfg .rcModelSize, .cfgOrder, [.initialOffset]⟩,
    ⟨s.cfg .finalOffset ≤ s.cfg .rcModelSize, .cfgOrder, [.finalOffset]⟩,
    ⟨s.cfg .flatnessMinQp ≤ maxQp s.bpc, .cfgRange, [.flatnessMinQp]⟩,
    ⟨s.cfg .flatnessMaxQp ≤ maxQp s.bpc, .cfgRange, [.flatnessMaxQp]⟩]

/-- Points 12 and 13 of 45_sequencing.md R413: the thresholds, then the ranges. -/
def tableChecks (s : State) : List FieldCheck :=
  (List.range 13).map (fun i =>
      ⟨s.cfg (.rcBufThresh i) < s.cfg (.rcBufThresh (i + 1)), .cfgOrder, [.rcBufThresh i, .rcBufThresh (i + 1)]⟩)
    ++ [⟨s.cfg (.rcBufThresh 13) * 64 < s.cfg .rcModelSize, .cfgOrder, [.rcBufThresh 13]⟩]
    ++ (List.range 15).flatMap (fun j =>
      [⟨s.cfg (.rangeMaxQp j) ≤ maxQp s.bpc, .cfgRange, [.rangeMaxQp j]⟩,
        ⟨s.cfg (.rangeMinQp j) ≤ s.cfg (.rangeMaxQp j), .cfgOrder, [.rangeMinQp j]⟩]
        ++ if j = 0 then []
          else
            [⟨s.cfg (.rangeMinQp (j - 1)) ≤ s.cfg (.rangeMinQp j), .cfgOrder, [.rangeMinQp (j - 1), .rangeMinQp j]⟩,
              ⟨s.cfg (.rangeMaxQp (j - 1)) ≤ s.cfg (.rangeMaxQp j), .cfgOrder, [.rangeMaxQp (j - 1), .rangeMaxQp j]⟩])

/-- The level of a QP in closed form (41_quantizer.md R231, R232). -/
def levelOf (s : State) (c : Cpnt) (qp : Nat) : Nat :=
  if s.cfg .convertRgb = 1 ∧ c ≠ .i0 then (if qp < 2 then qp else qp / 2 + 1) else qp / 2

/-! ### Lines of samples -/

/-- Every original sample of the line is written, with the values o. -/
def State.origIs (s : State) (o : Cpnt → Nat → Sample) : Prop :=
  ∀ c i, i < s.width → storeRead (s.orig.get c) i = some (o c i)

/-- Every sample of the reduced line above is written. -/
def State.prevFull (s : State) : Prop := ∀ c i, i < s.width → (storeRead (s.prev.get c) i).isSome = true

/-- The samples of the current line below n are written. -/
def State.curFullTo (s : State) (n : Nat) : Prop := ∀ c i, i < n → (storeRead (s.cur.get c) i).isSome = true

/-- The element of a line of w samples that replication reads for index i (20_memory.md R102). -/
def edgeIndex (w : Nat) (i : Int) : Nat := (min (max i 0) ((w : Int) - 1)).toNat

/-- The information word of `F_UNINIT`: `{space[31:28], c[25:24], i[15:0]}` (60_exceptions.md R442). -/
def gapInfo (space c i : Nat) : Int := (space * 2 ^ 28 + c * 2 ^ 24 + i % 2 ^ 16 : Nat)

/-- What `prevRead(c, i)` raises: the word of the element that replication names, unless it is written; line 0 has no line
above (20_memory.md R102; the element named is log entry 12). -/
def prevGap (s : State) (c : Cpnt) (i : Int) : Option Int :=
  let k := edgeIndex s.width i
  if s.vPos = 0 ∨ storeRead (s.prev.get c) k = none then some (gapInfo 1 c.toNat k) else none

/-- What `curRead(c, i)` raises: the word of an element not written; left of the line it reads the line above, but on line 0
(20_memory.md R102). -/
def curGap (s : State) (c : Cpnt) (i : Int) : Option Int :=
  if 0 ≤ i then if storeRead (s.cur.get c) i.toNat = none then some (gapInfo 2 c.toNat i.toNat) else none
  else if s.vPos = 0 then none
  else prevGap s c 0

/-- What `origRead(c, i)` raises: the word of the element that replication names, unless it is written (20_memory.md
R102). -/
def origGap (s : State) (c : Cpnt) (i : Int) : Option Int :=
  let k := edgeIndex s.width i
  if storeRead (s.orig.get c) k = none then some (gapInfo 3 c.toNat k) else none

/-- The first of a row of reads that raises: a command raises the first fault its rules name (60_exceptions.md R446). -/
def firstGap (l : List (Option Int)) : Option Int := l.findSome? id

/-- What the lookup of a valid ICH entry raises: an entry of the line above reads `prev` (42_ich.md R262). -/
def entryGap (s : State) (k : Nat) (c : Cpnt) (gs : Int) : Option Int :=
  if 1 ≤ s.vPos ∧ 25 ≤ k then prevGap s c (max 3 (min (gs + 1) ((s.width : Int) - 4)) + (k - 25) - 3) else none

/-- The reads of one original pixel against every valid entry, in the order of log entry 10 (42_ich.md R265, R267). -/
def pixelGaps (s : State) (i gs : Int) : List (Option Int) :=
  ((List.range 32).filter (ichValidAt s)).flatMap (fun k =>
    Idx3.all.flatMap (fun c => [origGap s c i, entryGap s k c gs]))

/-- The originals as they stand, 0 for an element not written. -/
def heldOrig (s : State) (c : Cpnt) (i : Nat) : Sample := (storeRead (s.orig.get c) i).getD 0

/-- A blended neighbour of the MAP predictor from the three samples of the line above it (40_prediction.md R183). -/
def blendFormula (q : Nat) (l m r : Int) : Int :=
  m + min (max ((l + 2 * m + r + 2) / 4 - m) (-(2 ^ q / 2))) (2 ^ q / 2)

/-- The clamped sum of the MAP prediction of pixel i (40_prediction.md R185). -/
def mapFormula (i : Nat) (a bC bB bD bE r0 r1 : Int) : Int :=
  if i = 0 then min (max (a + bB - bC) (min a bB)) (max a bB)
  else if i = 1 then min (max (a + bD - bC + r0) (min a (min bB bD))) (max a (max bB bD))
  else min (max (a + bE - bC + r0 + r1) (min a (min bB (min bD bE)))) (max a (max bB (max bD bE)))

/-- The flatness class of the candidate group at position gsj of a line of w original samples o: 0, 1 or 2
(43_rate_control.md R336, R337). -/
def flatClassOf (s : State) (o : Cpnt → Nat → Sample) (qp gsj : Nat) : Nat :=
  let x (c : Cpnt) (j : Int) : Nat := (o c (edgeIndex s.width (gsj + j))).toNat
  let hi (c : Cpnt) : Nat := max (x c (-1)) (max (x c 0) (max (x c 1) (x c 2)))
  let lo (c : Cpnt) : Nat := min (x c (-1)) (min (x c 0) (min (x c 1) (x c 2)))
  if s.width ≤ gsj then 0
  else if ∀ c ∈ Idx3.all, hi c - lo c ≤ s.flatThresh.toNat then 2
  else if ∀ c ∈ Idx3.all, hi c - lo c ≤ s.flatThresh.toNat + 2 ^ levelOf s c qp / 2 then 1
  else 0

/-- What the detection over a list of candidate positions raises: the first original not written of the candidates up to
the first flat one or the line's end (43_rate_control.md R336, R337). -/
def flatGap (s : State) (gs qp : Nat) : List Nat → Option Int
  | [] => none
  | p :: rest =>
    if s.width ≤ gs + 12 + 3 * p then none
    else
      match firstGap (Idx3.all.flatMap (fun c =>
        [-1, 0, 1, 2].map (fun j => origGap s c (((gs + 12 + 3 * p : Nat) : Int) + j)))) with
      | some info => some info
      | none => if flatClassOf s (heldOrig s) qp (gs + 12 + 3 * p) ≠ 0 then none else flatGap s gs qp rest

/-! ### Invariants -/

/-- The storage keeps its form: the PPS image lists rising indices below 128 with no zero byte and its reserved bits read
0 (10_state.md R32), each line buffer is in canonical form, the ICH has 32 entries (42_ich.md R260) and each window slot
has its 8 costs (10_state.md R47). -/
structure StorageInv (s : State) : Prop where
  image : Memory.wf s.mem
  imageBound : ∀ p ∈ s.mem, p.1 < 128
  reserved : ∀ k, ppsBitReserved k = true → ppsBit s.mem k = false
  prev : ∀ c, storeWf (s.prev.get c)
  cur : ∀ c, storeWf (s.cur.get c)
  orig : ∀ c, storeWf (s.orig.get c)
  ich : s.ich.length = 32
  window : ∀ k, (s.bp.window.get k).bp.length = 8

/-- The status bits, the mode flags, the position and the group counts agree (10_state.md R36, R38, R40, R45 to R48;
45_sequencing.md R413 to R418; 60_exceptions.md R443). -/
structure ControlInv (s : State) : Prop where
  validLegal : s.st.cfgValid = true → LegalConfig s
  activeValid : s.st.sliceActive = true → s.st.cfgValid = true
  activeState : s.st.sliceActive = true → s.st.stateValid = true
  activeRuns : s.st.sliceActive = true → s.st.faulted = false
  activeNotDone : s.st.sliceActive = true → s.st.sliceDone = false
  doneValid : s.st.sliceDone = true → s.st.cfgValid = true
  doneState : s.st.sliceDone = true → s.st.stateValid = true
  doneAtEnd : s.st.sliceDone = true → s.vPos = s.height
  lineActive : s.mode.lineOpen = true → s.st.sliceActive = true
  pendingLine : s.mode.groupPending = true → s.mode.lineOpen = true
  faultRecorded : s.st.faulted = s.st.faultCode.isSome
  lineInside : s.st.sliceActive = true → s.vPos < s.height
  groupAligned : s.st.sliceActive = true → s.hPos = 3 * s.pos.groupInLine.toNat
  lineBound : s.st.sliceActive = true → s.hPos ≤ s.width + 2
  supergroup : s.mode.lineOpen = true → s.flat.sgPos.toNat = s.pos.groupInLine.toNat % 4
  checkedGroups : s.st.cfgValid = true → s.ngChecked.toNat = s.ng
  sliceGroups : s.st.sliceActive = true → s.bp.ngSlice.toNat = s.ng

/-- The rate registers of an active slice stay in their working ranges (43_rate_control.md R307, R310, R312, R313, R320;
10_state.md R37). -/
structure RateRanges (s : State) : Prop where
  fullness : 0 ≤ s.fullness ∧ s.fullness ≤ s.rcbBits
  masterQp : s.masterQp ≤ maxQp s.bpc
  prevQp : s.qp.prevQp.toNat ≤ maxQp s.bpc
  predQp : s.size.prevPredQp.toNat ≤ maxQp s.bpc
  scale : 8 ≤ s.rc.rcXformScale.toNat
  model : s.rc.rcModelFullness.toInt < 0
  range : s.rc.rcRange.toNat ≤ 14

/-- While a slice is active its rate registers are in range. -/
def RateInv (s : State) : Prop := s.st.sliceActive = true → RateRanges s

/-- While a slice is active or done, every stored sample fits its component: no line-buffer element and no valid ICH
value exceeds `maxval[c]` (10_state.md R49, 00_scope.md R16). -/
structure SampleRanges (s : State) : Prop where
  prev : ∀ c i v, storeRead (s.prev.get c) i = some v → v.toNat ≤ s.maxval c
  cur : ∀ c i v, storeRead (s.cur.get c) i = some v → v.toNat ≤ s.maxval c
  orig : ∀ c i v, storeRead (s.orig.get c) i = some v → v.toNat ≤ s.maxval c
  ich : ∀ k c, (ichEntry s k).valid = true → ((ichEntry s k).v.get c).toNat ≤ s.maxval c

/-- The sample ranges hold while a slice is active or done. -/
def SampleInv (s : State) : Prop := s.inSlice → SampleRanges s

/-- The cache slots in use: the valid ones form an initial run and hold distinct triples (42_ich.md R274). -/
structure IchInv (s : State) : Prop where
  size : s.ich.length = 32
  run : ∀ j k, j < k → k < ichSlots s → (ichEntry s k).valid = true → (ichEntry s j).valid = true
  distinct :
    ∀ j k, j < k → k < ichSlots s → (ichEntry s k).valid = true → (ichEntry s j).v ≠ (ichEntry s k).v

/-- While a slice is active, a group of a line is block predicted only if the configuration enables it, and every stored
vector is a candidate (40_prediction.md R181, R191, R200). -/
structure BlockRanges (s : State) : Prop where
  curClass : ∀ g < s.ng, s.bp.ptypeCur.getD g .left = .bp → s.cfg .blockPredEnable = 1
  nextClass : ∀ g < s.ng, s.bp.ptypeNext.getD g .left = .bp → s.cfg .blockPredEnable = 1
  curVector : ∀ g < s.ng, 3 ≤ (s.bp.bpVecCur.getD g 0).toNat ∧ (s.bp.bpVecCur.getD g 0).toNat ≤ 10
  nextVector : ∀ g < s.ng, 3 ≤ (s.bp.bpVecNext.getD g 0).toNat ∧ (s.bp.bpVecNext.getD g 0).toNat ≤ 10

/-- The block-prediction ranges hold while a slice is active. -/
def BlockInv (s : State) : Prop := s.st.sliceActive = true → BlockRanges s

/-! ### Group commands -/

/-- A group command can run on this state: an open line with a group left, no group pending, a legal configuration, QPs in
range, the samples it reads written, and room in the counters (44_entropy.md R370, R375). -/
structure GroupReady (s : State) : Prop where
  runs : s.running
  active : s.st.sliceActive = true
  lineOpen : s.mode.lineOpen = true
  noneLeft : s.mode.groupPending = false
  inLine : s.hPos < s.width
  legal : LegalConfig s
  masterQp : s.masterQp ≤ maxQp s.bpc
  predQp : s.size.prevPredQp.toNat ≤ maxQp s.bpc
  above : 1 ≤ s.vPos → s.prevFull
  left : s.curFullTo s.hPos
  vector : s.bp.ptypeCur.getD (s.hPos / 3) .left = .bp → 3 ≤ (s.bp.bpVecCur.getD (s.hPos / 3) 0).toNat
  groups : s.pos.groupCount.toNat + 1 < 2 ^ 32
  lineGroups : s.pos.groupInLine.toNat + 1 < 2 ^ 16
  bits : s.pos.codedBitsTotal.toNat + 1000 < 2 ^ 32

/-- The value of a read; 0 stands for a raise, which no ready state meets. -/
def valueOf (r : Rd Int) : Int :=
  match r with
  | .ok v => v
  | .error _ => 0

/-- The padded sample `curRead(c, j)` (20_memory.md R102). -/
def sampleAt (s : State) (c : Cpnt) (j : Int) : Int := valueOf (curRead s c j)

/-- `q[c]` of the next group (30_encoding.md R152). -/
def unitLevel (s : State) (c : Cpnt) : Nat := levelOf s c s.masterQp

/-- `M[c]` of the next group: `B[c] - q[c]` (30_encoding.md R152). -/
def unitWidth (s : State) (c : Cpnt) : Nat := s.depth c - unitLevel s c

/-- `p[c]` of the next group: the adjusted predicted size (44_entropy.md R361). -/
def unitFloor (s : State) (c : Cpnt) : Nat :=
  (min (max ((s.size.predictedSize.get c).toNat + (levelOf s c s.size.prevPredQp.toNat : Int) - unitLevel s c) 0)
    ((unitWidth s c : Int) - 1)).toNat

/-- The greatest size of three residuals (44_entropy.md R377, 41_quantizer.md R238). -/
def sizeOfThree (e : Tri Int) : Nat := max (residualSize e.a0) (max (residualSize e.a1) (residualSize e.a2))

/-- The residuals a group leaves in `qres[c]` (10_state.md R48). -/
def residualsOf (s : State) (c : Cpnt) : Tri Int :=
  ⟨(s.scratch.qres.get c).a0.toInt, (s.scratch.qres.get c).a1.toInt, (s.scratch.qres.get c).a2.toInt⟩

/-- The real pixels of the group at `hPos`: `min(3, W - gs)` (40_prediction.md R202, 42_ich.md R273). -/
def groupPixels (s : State) : Nat := min 3 (s.width - s.hPos)

/-- The flatness fields of the next group are present (30_encoding.md R151). -/
abbrev flatPresent (s : State) : Prop :=
  s.flat.sgPos = 0 ∧ s.cfg .flatnessMinQp ≤ s.masterQp ∧ s.masterQp ≤ s.cfg .flatnessMaxQp

/-- The midpoint prediction of the next group (40_prediction.md R189). -/
def midpointAt (s : State) (c : Cpnt) : Int :=
  2 ^ (s.depth c - 1) + sampleAt s c ((s.hPos : Int) - 1) % 2 ^ unitLevel s c

/-- A sample of the next group from its prediction and its residual (41_quantizer.md R236, R240). -/
def sampleFrom (s : State) (c : Cpnt) (p e : Int) : Int := min (max (p + e * 2 ^ unitLevel s c) 0) (s.maxval c)

/-- The prediction of pixel i of a normal unit by its class: LEFT on line 0, else BP or MAP as the line above has chosen
(40_prediction.md R181, R187, R188; the state is one whose `cur` holds the samples left of the pixel). -/
def classPrediction (s : State) (c : Cpnt) (gs q : Nat) (i : Pix) (r0 r1 : Int) : Int :=
  if s.vPos = 0 then sampleAt s c ((gs : Int) + i.toNat - 1)
  else if s.bp.ptypeCur.getD (gs / 3) .left = .bp then
    sampleAt s c ((gs : Int) + i.toNat - (s.bp.bpVecCur.getD (gs / 3) 0).toNat)
  else valueOf (mapPred s c gs i q r0 r1)

/-- A unit of a group that is no ICH group, from the state s before it to t: every sample is its prediction and residual,
clamped; the prediction is the midpoint's or the class's; the sizes are those of the residuals (44_entropy.md R364 to
R366, R375, R377; 40_prediction.md R189, R192). -/
structure UnitDone (s t : State) (c : Cpnt) : Prop where
  samples : ∀ i : Pix, sampleAt t c ((s.hPos : Int) + i.toNat) =
    sampleFrom s c ((t.scratch.pred.get c).get i).toInt ((residualsOf t c).get i)
  midpoint : (t.size.mppUsed.get c) = true → ∀ i : Pix, ((t.scratch.pred.get c).get i).toInt = midpointAt s c
  predicted : (t.size.mppUsed.get c) = false → ∀ i : Pix, ((t.scratch.pred.get c).get i).toInt =
    classPrediction t c s.hPos (unitLevel s c) i ((residualsOf t c).a0 * 2 ^ unitLevel s c)
      ((residualsOf t c).a1 * 2 ^ unitLevel s c)
  kind : (t.size.mppUsed.get c) = true ↔ (t.size.sizeUsed.get c).toNat = unitWidth s c
  size : unitFloor s c ≤ (t.size.sizeUsed.get c).toNat ∧ (t.size.sizeUsed.get c).toNat ≤ unitWidth s c
  fits : sizeOfThree (residualsOf t c) ≤ (t.size.sizeUsed.get c).toNat
  feedback : (t.size.predictedSize.get c).toNat =
    if (t.size.mppUsed.get c) = true then unitWidth s c else sizeOfThree (residualsOf t c)

/-- The cache after a group: its real pixels inserted in order (42_ich.md R272, R273). -/
def cacheAfter (s t : State) : List IchEntry :=
  (List.range (groupPixels s)).foldl
    (fun l j =>
      ichInsert (if s.vPos = 0 then 32 else 25)
        ⟨BitVec.ofInt 16 (sampleAt t .i0 (s.hPos + j : Nat)), BitVec.ofInt 16 (sampleAt t .i1 (s.hPos + j : Nat)),
          BitVec.ofInt 16 (sampleAt t .i2 (s.hPos + j : Nat))⟩ l)
    s.ich

/-- The sum over the real pixels and the components of the group of a difference (40_prediction.md R202). -/
def sumOverGroup (s : State) (d : Nat → Cpnt → Int) : Nat :=
  ((List.range (groupPixels s)).map (fun i => (d i .i0).natAbs + (d i .i1).natAbs + (d i .i2).natAbs)).sum

/-- The cost of the block vector -v over the group (40_prediction.md R202). -/
def vectorCost (s t : State) (v : Nat) : Nat :=
  sumOverGroup s (fun i c => sampleAt t c ((s.hPos : Int) + i) - sampleAt t c ((s.hPos : Int) + i - v))

/-- The reference predictions of the group, with the residuals of the samples themselves (40_prediction.md R201). -/
def referencePrediction (s t : State) (c : Cpnt) : Tri Int :=
  let x (i : Int) : Int := sampleAt t c (s.hPos + i)
  let p (i : Pix) (r0 r1 : Int) : Int :=
    if s.vPos = 0 then x ((i.toNat : Int) - 1) else valueOf (mapPred t c s.hPos i (unitLevel s c) r0 r1)
  let r0 := x 0 - p .i0 0 0
  let r1 := x 1 - p .i1 r0 0
  ⟨p .i0 0 0, p .i1 r0 0, p .i2 r0 r1⟩

/-- The cost of MAP over the group (40_prediction.md R202). -/
def mapCost (s t : State) : Nat :=
  sumOverGroup s (fun i c =>
    sampleAt t c ((s.hPos : Int) + i)
      - (if i = 0 then (referencePrediction s t c).a0
        else if i = 1 then (referencePrediction s t c).a1
        else (referencePrediction s t c).a2))

/-- The group has an edge (40_prediction.md R202). -/
def edgeSeen (s t : State) : Prop :=
  ∃ i < groupPixels s, ∃ c : Cpnt,
    2 ^ (s.depth c - 3) < (sampleAt t c ((s.hPos : Int) + i) - sampleAt t c ((s.hPos : Int) + i - 1)).natAbs

/-- The window's cost of the block vector -v, over the groups seen (40_prediction.md R202). -/
def windowCost (b : BpRegs) (v : Nat) : Nat :=
  ((([b.window.a0, b.window.a1, b.window.a2] : List BpCost).take b.bpGroupsSeen.toNat).map
    (fun k => (k.bp.getD (v - 3) 0).toNat)).sum

/-- The window's cost of MAP (40_prediction.md R202). -/
def windowMapCost (b : BpRegs) : Nat :=
  ((([b.window.a0, b.window.a1, b.window.a2] : List BpCost).take b.bpGroupsSeen.toNat).map (fun k => k.map.toNat)).sum

/-- The block-prediction search after a group (40_prediction.md R191, R202). -/
structure SearchDone (s t : State) : Prop where
  vectorCosts : ∀ v, 3 ≤ v → v ≤ 10 → (t.bp.window.a0.bp.getD (v - 3) 0).toNat = min 65535 (vectorCost s t v)
  mapCosts : t.bp.window.a0.map.toNat = min 65535 (mapCost s t)
  shifted : t.bp.window.a1 = s.bp.window.a0 ∧ t.bp.window.a2 = s.bp.window.a1
  seen : t.bp.bpGroupsSeen.toNat = min 3 (s.bp.bpGroupsSeen.toNat + 1)
  edge : edgeSeen s t → t.bp.edgeHold = 3
  noEdge : ¬ edgeSeen s t → t.bp.edgeHold.toNat = s.bp.edgeHold.toNat - 1
  best : ∃ v, 3 ≤ v ∧ v ≤ 10 ∧
    (∀ v', 3 ≤ v' → v' ≤ 10 → windowCost t.bp v ≤ windowCost t.bp v' ∧ (v' < v → windowCost t.bp v < windowCost t.bp v')) ∧
    (t.bp.bpVecNext.getD (s.hPos / 3) 0).toNat = v ∧
    t.bp.bpRun.toNat = if windowCost t.bp v < windowMapCost t.bp then min 255 (s.bp.bpRun.toNat + 1) else 0
  chosen : t.bp.ptypeNext.getD (s.hPos / 3) .left =
    if s.cfg .blockPredEnable = 1 ∧ t.bp.bpGroupsSeen.toNat = 3 ∧ 3 ≤ t.bp.bpRun.toNat ∧ t.bp.edgeHold.toNat = 0 then .bp
    else .map
  others : ∀ g, g ≠ s.hPos / 3 → t.bp.ptypeNext.getD g .left = s.bp.ptypeNext.getD g .left ∧
    t.bp.bpVecNext.getD g 0 = s.bp.bpVecNext.getD g 0
  kept : t.bp.ptypeCur = s.bp.ptypeCur ∧ t.bp.bpVecCur = s.bp.bpVecCur ∧ t.bp.ngSlice = s.bp.ngSlice

/-- The bits of the flatness fields of the group that led from s to t (30_encoding.md R151). -/
def flatWire (s t : State) : List Bool :=
  if flatPresent s then
    if t.flat.flatNext.valid = true then true :: toBits 2 t.flat.flatNext.pos.toNat ++ [t.flat.flatNext.very] else [false]
  else []

/-- The bits of a unit: its prefix, then its three residuals (30_encoding.md R152, R154). -/
def unitWire (s t : State) (c : Cpnt) : List Bool :=
  let n := (t.size.sizeUsed.get c).toNat
  let v := n - unitFloor s c
  let vmax := unitWidth s c - unitFloor s c
  let field (e : Int) : List Bool := toBits n (e % 2 ^ n).toNat
  (if c = .i0 then unaryBits (v + s.mode.ichSelected.toNat) (vmax + 1) else unaryBits v vmax)
    ++ field (residualsOf t c).a0 ++ field (residualsOf t c).a1 ++ field (residualsOf t c).a2

/-- The bits of an ICH group after the flatness fields: the escape, then three indices (30_encoding.md R152, R155). -/
def ichWire (s t : State) : List Bool :=
  let vmax := unitWidth s .i0 - unitFloor s .i0 + 1
  unaryBits (if s.mode.ichSelected = true then 0 else vmax) vmax
    ++ toBits 5 t.mode.ichIdx.a0.toNat ++ toBits 5 t.mode.ichIdx.a1.toNat ++ toBits 5 t.mode.ichIdx.a2.toNat

/-- The bits of the group that led from s to t, in each substream (30_encoding.md R151). -/
def groupWire (s t : State) : Tri (List Bool) :=
  if t.mode.ichSelected = true then ⟨flatWire s t ++ ichWire s t, [], []⟩
  else ⟨flatWire s t ++ unitWire s t .i0, unitWire s t .i1, unitWire s t .i2⟩

/-- The bits of a group over all substreams: `codedGroupSize` (30_encoding.md R156). -/
def groupBits (s t : State) : Nat :=
  (groupWire s t).a0.length + (groupWire s t).a1.length + (groupWire s t).a2.length

/-- What both group commands leave (44_entropy.md R370, R375, R377, R378). The bit streams and the record of present
flatness fields, which differ by direction, are stated apart. -/
structure GroupDone (s t : State) : Prop where
  status : t.st = s.st
  port : t.port = { s.port with res := BitVec.ofNat 32 (groupBits s t) }
  pos :
    t.pos =
      { s.pos with
        hPos := BitVec.ofNat 16 (s.hPos + 3)
        groupInLine := s.pos.groupInLine + 1
        groupCount := s.pos.groupCount + 1
        codedBitsTotal := BitVec.ofNat 32 (s.pos.codedBitsTotal.toNat + groupBits s t) }
  coded : t.size.codedGroupSize.toNat = groupBits s t
  sizePrev : t.size.rcSizeGroupPrev = s.size.rcSizeGroupPrev
  pending : t.mode.groupPending = true
  lineOpen : t.mode.lineOpen = s.mode.lineOpen
  forceMpp : t.mode.forceMpp = s.mode.forceMpp
  prevIch : t.mode.prevIchSelected = s.mode.ichSelected
  sgPos : t.flat.sgPos = s.flat.sgPos + 1
  flatCur : t.flat.flatCur = s.flat.flatCur
  flatThis : t.flat.flatThisGroup = s.flat.flatThisGroup
  flatKept : s.flat.sgPos ≠ 0 → t.flat.flatNext = s.flat.flatNext
  flatAbsent : s.flat.sgPos = 0 → ¬ flatPresent s → t.flat.flatNext = ⟨false, false, 0⟩
  curElsewhere :
    ∀ c i, i < s.hPos ∨ s.hPos + 3 ≤ i → storeRead (t.cur.get c) i = storeRead (s.cur.get c) i
  curGroup :
    ∀ c i, s.hPos ≤ i → i < s.hPos + 3 → (storeRead (t.cur.get c) i).isSome = true
  cache : t.ich = cacheAfter s t
  search : SearchDone s t
  ichGroup :
    t.mode.ichSelected = true →
      t.size.rcSizeGroup = 0 ∧ t.size.predictedSize = s.size.predictedSize ∧ t.size.prevPredQp = s.size.prevPredQp ∧
        t.size.sizeUsed = ⟨0, 0, 0⟩ ∧ t.size.mppUsed = ⟨false, false, false⟩ ∧
        ∀ (c : Cpnt) (i : Pix), ((t.scratch.qres.get c).get i) = 0 ∧
          ((t.scratch.pred.get c).get i).toInt = sampleAt t c ((s.hPos : Int) + i.toNat) ∧
          historyLookup s (t.mode.ichIdx.get i).toNat c s.hPos = .ok (sampleAt t c ((s.hPos : Int) + i.toNat))
  units :
    t.mode.ichSelected = false →
      t.size.prevPredQp = s.qp.masterQp ∧ t.mode.ichIdx = s.mode.ichIdx ∧
        t.size.rcSizeGroup.toNat =
          3 * (t.size.sizeUsed.a0.toNat + t.size.sizeUsed.a1.toNat + t.size.sizeUsed.a2.toNat) ∧
        ∀ c, UnitDone s t c
  rest :
    t.pending = s.pending ∧ t.mem = s.mem ∧ t.flatThresh = s.flatThresh ∧ t.qp = s.qp ∧ t.buf = s.buf ∧ t.rc = s.rc ∧
      t.prev = s.prev ∧ t.orig = s.orig ∧ t.ngChecked = s.ngChecked

/-- The original sample of pixel i of the group at `hPos`, replicated past the line's end (20_memory.md R102). -/
def groupOriginal (s : State) (o : Cpnt → Nat → Sample) (c : Cpnt) (i : Pix) : Int :=
  ((o c (edgeIndex s.width ((s.hPos : Int) + i.toNat))).toNat : Int)

/-- The trial of a normal unit from the state before the group: each pixel's prediction and residual (44_entropy.md
R364). -/
def trialUnit (s : State) (o : Cpnt → Nat → Sample) (c : Cpnt) : Tri (Int × Int) :=
  let q := unitLevel s c
  let p (i : Pix) (r0 r1 left : Int) : Int :=
    if s.vPos = 0 then left else classPrediction s c s.hPos q i r0 r1
  let p0 := p .i0 0 0 (sampleAt s c ((s.hPos : Int) - 1))
  let e0 := quantize (groupOriginal s o c .i0 - p0) q
  let p1 := p .i1 (e0 * 2 ^ q) 0 (sampleFrom s c p0 e0)
  let e1 := quantize (groupOriginal s o c .i1 - p1) q
  let p2 := p .i2 (e0 * 2 ^ q) (e1 * 2 ^ q) (sampleFrom s c p1 e1)
  ⟨(p0, e0), (p1, e1), (p2, quantize (groupOriginal s o c .i2 - p2) q)⟩

/-- The residuals of the trial (44_entropy.md R364). -/
def trialResiduals (s : State) (o : Cpnt → Nat → Sample) (c : Cpnt) : Tri Int :=
  ⟨(trialUnit s o c).a0.2, (trialUnit s o c).a1.2, (trialUnit s o c).a2.2⟩

/-- The unit is an MPP unit: forced, or the trial needs the whole width (44_entropy.md R366). -/
abbrev trialIsMpp (s : State) (o : Cpnt → Nat → Sample) (c : Cpnt) : Prop :=
  s.mode.forceMpp = true ∨ unitWidth s c ≤ sizeOfThree (trialResiduals s o c)

/-- The residual of pixel i of an MPP unit: quantized and held to the width (40_prediction.md R192). -/
def mppResidualAt (s : State) (o : Cpnt → Nat → Sample) (c : Cpnt) (i : Pix) : Int :=
  min (max (quantize (groupOriginal s o c i - midpointAt s c) (unitLevel s c)) (-2 ^ (unitWidth s c - 1)))
    (2 ^ (unitWidth s c - 1) - 1)

/-- A unit the encoder coded: MPP when forced or when the trial needs the whole width; its residuals and its size
(44_entropy.md R364 to R366, 40_prediction.md R192). -/
structure UnitEncoded (s t : State) (o : Cpnt → Nat → Sample) (c : Cpnt) : Prop where
  kind : (t.size.mppUsed.get c) = true ↔ trialIsMpp s o c
  normal : (t.size.mppUsed.get c) = false → residualsOf t c = trialResiduals s o c ∧
    (t.size.sizeUsed.get c).toNat = max (sizeOfThree (trialResiduals s o c)) (unitFloor s c)
  mpp : (t.size.mppUsed.get c) = true → ∀ i : Pix, (residualsOf t c).get i = mppResidualAt s o c i

/-- The weighted error of an entry against pixel i of the group (42_ich.md R267). -/
def entryError (s : State) (o : Cpnt → Nat → Sample) (i : Pix) (k : Nat) : Int :=
  let d (c : Cpnt) : Int := |groupOriginal s o c i - valueOf (historyLookup s k c s.hPos)|
  2 * d .i0 + d .i1 + d .i2

/-- The index the encoder codes for pixel i: the first valid entry of least weighted error, where some valid entry is
within the quantization error of the pixel (42_ich.md R265, R267). -/
def PickedEntry (s : State) (o : Cpnt → Nat → Sample) (i : Pix) (k : Nat) : Prop :=
  k < 32 ∧ ichValidAt s k = true ∧
    (∀ k' < 32, ichValidAt s k' = true →
      entryError s o i k ≤ entryError s o i k' ∧ (k' < k → entryError s o i k < entryError s o i k')) ∧
    ∃ k' < 32, ichValidAt s k' = true ∧ ∀ c,
      |groupOriginal s o c i - valueOf (historyLookup s k' c s.hPos)| ≤ 2 ^ unitLevel s c / 2

/-- The greatest luma prefix value of the next group, `M[0] - p[0] + 1` (30_encoding.md R152, 44_entropy.md R361). -/
def lumaMax (s : State) : Nat := unitWidth s .i0 - unitFloor s .i0 + 1

/-- The number of prefix bits of an ICH escape: 1 after an ICH group, else as many zeros as the greatest prefix value
(30_encoding.md R152). -/
def escapeLength (s : State) : Nat := if s.mode.ichSelected = true then 1 else lumaMax s

/-- The size the trial units are sent at (44_entropy.md R366). -/
def trialSize (s : State) (o : Cpnt → Nat → Sample) (c : Cpnt) : Nat :=
  if trialIsMpp s o c then unitWidth s c else max (sizeOfThree (trialResiduals s o c)) (unitFloor s c)

/-- The samples the trial units reconstruct (44_entropy.md R364, R365). -/
def trialSample (s : State) (o : Cpnt → Nat → Sample) (c : Cpnt) (i : Pix) : Int :=
  if trialIsMpp s o c then sampleFrom s c (midpointAt s c) (mppResidualAt s o c i)
  else sampleFrom s c ((trialUnit s o c).get i).1 ((trialUnit s o c).get i).2

/-- The bits of a trial unit: the length of its unary prefix, then three residuals (44_entropy.md R367, 30_encoding.md R150,
R152). -/
def trialBits (s : State) (o : Cpnt → Nat → Sample) (c : Cpnt) : Nat :=
  let v := trialSize s o c - unitFloor s c
  let vmax := unitWidth s c - unitFloor s c
  (if c = .i0 then min (v + s.mode.ichSelected.toNat + 1) (vmax + 1) else min (v + 1) vmax) + 3 * trialSize s o c

/-- A sum over the three components or pixels. -/
def sumOfThree (f : Idx3 → Nat) : Nat := f .i0 + f .i1 + f .i2

/-- `errN`: luma counts twice (44_entropy.md R367). -/
def trialError (s : State) (o : Cpnt → Nat → Sample) : Nat :=
  sumOfThree (fun i => sumOfThree (fun c =>
    (if c = .i0 then 2 else 1) * (groupOriginal s o c i - trialSample s o c i).natAbs))

/-- `costN`: bits, and the logarithm of the error to base 2, rounded up (44_entropy.md R367). -/
def trialCost (s : State) (o : Cpnt → Nat → Sample) : Nat :=
  sumOfThree (trialBits s o) + Nat.clog 2 (trialError s o + 1)

/-- `costI` of three entries: the escape, three indices of 5 bits, and the logarithm of the error (44_entropy.md R368). -/
def entriesCost (s : State) (o : Cpnt → Nat → Sample) (k : Tri Nat) : Nat :=
  escapeLength s + 3 * 5 + Nat.clog 2 (sumOfThree (fun i => (entryError s o i (k.get i)).toNat) + 1)

/-- The group is an ICH group: MPP is not forced, every pixel has an entry within the quantization error, and the best
entries cost less than the units; on equal cost the units win (44_entropy.md R368). -/
def IchChosen (s : State) (o : Cpnt → Nat → Sample) : Prop :=
  s.mode.forceMpp = false ∧
    ∃ k : Tri Nat, (∀ i : Pix, PickedEntry s o i (k.get i)) ∧ entriesCost s o k < trialCost s o

/-- The flatness record of the next supergroup from the originals (43_rate_control.md R336, R337). -/
def flatRecordOf (s : State) (o : Cpnt → Nat → Sample) : FlatRec :=
  let k (p : Nat) : Nat := flatClassOf s o s.masterQp (s.hPos + 12 + 3 * p)
  if k 0 ≠ 0 then ⟨true, k 0 = 2, 0⟩
  else if k 1 ≠ 0 then ⟨true, k 1 = 2, 1⟩
  else if k 2 ≠ 0 then ⟨true, k 2 = 2, 2⟩
  else if k 3 ≠ 0 then ⟨true, k 3 = 2, 3⟩
  else ⟨false, false, 0⟩

/-- The bits of the luma substream after the flatness fields of the next group (30_encoding.md R151). -/
def lumaBits (s : State) : List Bool :=
  let bs := s.io.source.get .i0
  if flatPresent s then if bs.head? = some true then bs.drop 4 else bs.drop 1 else bs

/-- The flatness record that the source holds for the next group, when its fields are present (44_entropy.md R375). -/
def flatRecordAhead (s : State) : FlatRec :=
  match s.io.source.get .i0 with
  | true :: hi :: lo :: ty :: _ => ⟨true, ty, BitVec.ofNat 2 (2 * hi.toNat + lo.toNat)⟩
  | _ => ⟨false, false, 0⟩

/-- The next group read from the source starts with the ICH escape (30_encoding.md R153). -/
def escapeAhead (s : State) : Prop :=
  if s.mode.ichSelected = true then (lumaBits s).head? = some true
  else (lumaBits s).take (lumaMax s) = List.replicate (lumaMax s) false

/-- The i-th ICH index of the next group, if it is an ICH group (30_encoding.md R151, R155). -/
def ichIndexAhead (s : State) (i : Pix) : Nat :=
  ofBits ((((lumaBits s).drop (escapeLength s)).drop (5 * i.toNat)).take 5)

/-! ### What `REG_RD` shows -/

/-- A register at its index, as the signed 32-bit value `REG_RD` returns (20_memory.md R101). -/
def regAt (idx : Nat) (v : Int) : Nat × Int := (idx, v)

/-- A flatness record as 4 bits: valid, type, pos (10_state.md R46). -/
def recordBits (f : FlatRec) : Nat := f.valid.toNat * 8 + f.very.toNat * 4 + f.pos.toNat

/-- The position, QP, buffer and rate registers by index (10_state.md R40 to R43). -/
def codingRegs (s : State) : List (Nat × Int) :=
  [regAt 0x0301 s.pos.vPos.toNat, regAt 0x0302 s.pos.hPos.toNat, regAt 0x0303 s.pos.groupInLine.toNat,
    regAt 0x0304 s.pos.groupCount.toInt, regAt 0x0305 s.pos.pixelCount.toInt,
    regAt 0x0306 s.pos.codedBitsTotal.toInt, regAt 0x0310 s.qp.masterQp.toNat, regAt 0x0311 s.qp.prevQp.toNat,
    regAt 0x0320 s.buf.bufferFullness.toInt, regAt 0x0321 s.buf.bpgFracAccum.toNat,
    regAt 0x0322 s.buf.removalStarted.toNat, regAt 0x0323 s.buf.chunkPixelCount.toInt,
    regAt 0x0324 s.buf.numBitsChunk.toInt, regAt 0x0325 s.buf.clampedBits.toInt,
    regAt 0x0326 s.buf.chunkIndex.toInt, regAt 0x0330 s.rc.rcXformScale.toNat,
    regAt 0x0331 s.rc.rcXformOffsetFx.toInt, regAt 0x0332 s.rc.scaleDecCount.toNat,
    regAt 0x0333 s.rc.scaleIncCount.toNat, regAt 0x0334 s.rc.scaleIncrementStart.toNat,
    regAt 0x0335 s.rc.rcModelFullness.toInt, regAt 0x0336 s.rc.rcRange.toNat,
    regAt 0x0337 s.rc.rcTgtBitsGroup.toInt]

/-- The single registers of the group sizes, the modes, flatness and block prediction by index (10_state.md R44 to
R47). -/
def groupRegs (s : State) : List (Nat × Int) :=
  [regAt 0x0340 s.size.codedGroupSize.toNat, regAt 0x0341 s.size.rcSizeGroup.toNat,
    regAt 0x0342 s.size.rcSizeGroupPrev.toNat, regAt 0x0346 s.size.prevPredQp.toNat,
    regAt 0x0350 s.mode.ichSelected.toNat, regAt 0x0351 s.mode.prevIchSelected.toNat,
    regAt 0x0352 s.mode.forceMpp.toNat, regAt 0x0356 s.mode.groupPending.toNat,
    regAt 0x0357 s.mode.lineOpen.toNat, regAt 0x0360 (recordBits s.flat.flatNext),
    regAt 0x0361 (recordBits s.flat.flatCur), regAt 0x0362 s.flat.sgPos.toNat,
    regAt 0x0363
      (if s.flat.flatThisGroup = .none then 0 else if s.flat.flatThisGroup = .somewhat then 1 else 2 : Nat),
    regAt 0x038B s.bp.bpRun.toNat, regAt 0x038C s.bp.edgeHold.toNat, regAt 0x038D s.bp.bpGroupsSeen.toNat]

/-- The indices that 10_state.md R40 to R48 give a codec register, and those of the ICH store, as first and last index of
each run (20_memory.md R101). -/
def codecRanges : List (Nat × Nat) :=
  [(0x0301, 0x0306), (0x0310, 0x0311), (0x0320, 0x0326), (0x0330, 0x0337), (0x0340, 0x034C), (0x0350, 0x0357),
    (0x0360, 0x0363), (0x0370, 0x038D), (0x03A0, 0x03A8), (0x03B0, 0x03B8), (0x1000, 0x107F)]

/-- The unmapped indices below 0x8000 (20_memory.md R101), as first and last index of each run. -/
def unmappedRanges : List (Nat × Nat) :=
  [(0x0080, 0x00FF), (0x0101, 0x01FF), (0x0203, 0x0300), (0x0307, 0x030F), (0x0312, 0x031F), (0x0327, 0x032F),
    (0x0338, 0x033F), (0x034D, 0x034F), (0x0358, 0x035F), (0x0364, 0x036F), (0x038E, 0x039F), (0x03A9, 0x03AF),
    (0x03B9, 0x0FFF), (0x1080, 0x7FFF)]

/-! ### A rate-control update in closed form -/

/-- The real pixels of the group just coded (43_rate_control.md R306). -/
def updPixels (s : State) : Nat := min 3 (s.width - (s.hPos - 3))

/-- The pixel-times of the group that pass after the initial delay (43_rate_control.md R306). -/
def updTimes (s : State) : Nat :=
  s.pos.pixelCount.toNat + updPixels s - max s.pos.pixelCount.toNat (s.cfg .initialXmitDelay)

/-- The sixteenths of a bit accumulated before the carries (43_rate_control.md R306). -/
def updFrac (s : State) : Nat := s.buf.bpgFracAccum.toNat + updTimes s * (s.cfg .bitsPerPixel % 16)

/-- The fullness after steps 1 and 2 (43_rate_control.md R305, R306). -/
def updFullness (s : State) : Int :=
  s.fullness + s.size.codedGroupSize.toNat - (updTimes s * (s.cfg .bitsPerPixel / 16) : Nat) - (updFrac s / 16 : Nat)

/-- The fullness after step 3: VBR holds it at 0 or above (43_rate_control.md R307). -/
def updHeld (s : State) : Int := max (updFullness s) 0

/-- The bits of the chunk after step 1 (43_rate_control.md R305). -/
def updChunkBits (s : State) : Int := s.buf.numBitsChunk.toInt + s.size.codedGroupSize.toNat

/-- The bytes of a VBR chunk (43_rate_control.md R309). -/
def updChunkBytes (s : State) : Int := (updChunkBits s + 7) / 8

/-- The group just coded is the last of its line (43_rate_control.md R309). -/
abbrev updLast (s : State) : Prop := s.width ≤ s.hPos

/-- VBR mode. -/
abbrev updVbr (s : State) : Prop := s.cfg .vbrEnable = 1

/-- The model offset after step 5 (43_rate_control.md R310). -/
def updOffset (s : State) : Int :=
  s.rc.rcXformOffsetFx.toInt
    - (if s.pos.pixelCount.toNat + updPixels s ≤ s.cfg .initialXmitDelay then
        updPixels s * s.cfg .bitsPerPixel * 128
      else 0 : Nat)
    + s.cfg .sliceBpgOffset + (if 1 ≤ s.vPos then s.cfg .nflBpgOffset else 0 : Nat)

/-- The zero-crossing flag after step 5 (43_rate_control.md R310). -/
def updCrossed (s : State) : Bool :=
  s.rc.scaleIncrementStart
    || decide (1 ≤ s.vPos ∧ 0 < updOffset s / 2048 + s.cfg .rcModelSize - s.cfg .finalOffset)

/-- The scale and its two counters after step 5 (43_rate_control.md R310). -/
def updScale (s : State) : Nat × Nat × Nat :=
  let scale := s.rc.rcXformScale.toNat
  let dec := s.rc.scaleDecCount.toNat
  let inc := s.rc.scaleIncCount.toNat
  if updCrossed s = false then
    if s.cfg .scaleDecrementInterval = 0 ∨ scale ≤ 8 then (scale, dec, inc)
    else if s.cfg .scaleDecrementInterval ≤ dec + 1 then (scale - 1, 0, inc)
    else (scale, dec + 1, inc)
  else if s.cfg .scaleIncrementInterval = 0 then (scale, dec, inc)
  else if s.cfg .scaleIncrementInterval ≤ inc + 1 then (min 63 (scale + 1), dec, 0)
  else (scale, dec, inc + 1)

/-- The transformed fullness (43_rate_control.md R311). -/
def updModel (s : State) : Int := ((updScale s).1 : Int) * (updHeld s + updOffset s / 2048) / 8

/-- The range: the highest whose lower threshold the model fullness exceeds (43_rate_control.md R313). -/
def updRange (s : State) : Nat :=
  ((List.range 15).reverse.find? (fun j =>
    decide (j = 0 ∨ (s.cfg (.rcBufThresh (j - 1)) * 64 : Int) - s.cfg .rcModelSize < updModel s))).getD 0

/-- The target (43_rate_control.md R315). -/
def updTarget (s : State) : Int :=
  ((s.cfg .bitsPerPixel * 3 + 8) / 16 : Nat)
    + (if s.cfg (.rangeBpgOffset (updRange s)) < 32 then (s.cfg (.rangeBpgOffset (updRange s)) : Int)
      else (s.cfg (.rangeBpgOffset (updRange s)) : Int) - 64)
    + (if s.vPos = 0 then s.cfg .firstLineBpgOfs else 0 : Nat)

/-- The QP that step 8 computes (43_rate_control.md R316, R320). -/
def updQp (s : State) : Int :=
  let qp : Int := s.qp.masterQp.toNat
  let lo : Int := s.cfg (.rangeMinQp (updRange s))
  let hi : Int := s.cfg (.rangeMaxQp (updRange s))
  let coded : Int := s.size.codedGroupSize.toNat
  let predicted : Int :=
    3 + 3 * (s.size.predictedSize.a0.toNat + s.size.predictedSize.a1.toNat + s.size.predictedSize.a2.toNat)
  let low := updTarget s - s.cfg .rcTgtOffsetLo
  let high := updTarget s + s.cfg .rcTgtOffsetHi
  let limit : Int :=
    if s.qp.masterQp = s.qp.prevQp ∧
        s.size.rcSizeGroup.toNat * 2 < s.size.rcSizeGroupPrev.toNat * s.cfg .rcEdgeFactor then
      s.cfg .rcQuantIncrLimit0
    else s.cfg .rcQuantIncrLimit1
  if s.size.mppUsed = ⟨true, true, true⟩ then min hi (max (lo / 2) (max (qp - 2) 0))
  else if coded < low ∧ predicted < low then min (max (qp - 1) lo) hi
  else if 64 ≤ updHeld s ∧ high < coded then min (max qp lo + min (max 1 ((coded - updTarget s) / 2)) limit) hi
  else min (max qp lo) hi

/-- The flatness registers after step 9 (43_rate_control.md R325). -/
def updFlat (s : State) : FlatRegs :=
  let cur := if s.flat.sgPos = 0 then s.flat.flatNext else s.flat.flatCur
  { s.flat with
    flatCur := cur
    flatNext := if s.flat.sgPos = 0 then ⟨false, false, 0⟩ else s.flat.flatNext
    flatThisGroup :=
      if cur.valid = true ∧ cur.pos = s.flat.sgPos then (if cur.very = true then .very else .somewhat) else .none }

/-- The QP after the flatness override of step 9 (43_rate_control.md R325). -/
def updMasterQp (s : State) : Int :=
  if s.masterQp < s.cfg (.rangeMaxQp 14) then
    match (updFlat s).flatThisGroup with
    | .none => updQp s
    | .somewhat => max (updQp s - 4) 0
    | .very => 1 + 2 * ((s.bpc : Int) - 8)
  else updQp s

/-- The MPP-forcing flag of step 10 (43_rate_control.md R327). -/
def updForce (s : State) : Bool :=
  decide (s.cfg .vbrEnable = 0) && (s.buf.removalStarted || decide (0 < updTimes s))
    && decide (updHeld s < ((s.cfg .bitsPerPixel * 3 + 15) / 16 : Nat))

/-- `RC_UPDATE` gets to its checks on this state: a pending group of an active slice, a legal configuration, a fullness
inside its bounds, and values inside the registers' widths (43_rate_control.md R330). -/
structure UpdateStart (s : State) : Prop where
  runs : s.running
  active : s.st.sliceActive = true
  pending : s.mode.groupPending = true
  legal : LegalConfig s
  position : 3 ≤ s.hPos
  fullness : 0 ≤ s.fullness ∧ s.fullness ≤ s.rcbBits
  chunk : -2 ^ 30 ≤ s.buf.numBitsChunk.toInt ∧ s.buf.numBitsChunk.toInt ≤ 2 ^ 30
  offset : -2 ^ 30 ≤ s.rc.rcXformOffsetFx.toInt ∧ s.rc.rcXformOffsetFx.toInt ≤ 2 ^ 30
  pixels : s.pos.pixelCount.toNat + 3 < 2 ^ 32
  chunkPixels : s.buf.chunkPixelCount.toNat + 3 < 2 ^ 32
  clamped : s.buf.clampedBits.toNat + 2 ^ 20 < 2 ^ 32
  chunks : s.buf.chunkIndex.toNat + 1 < 2 ^ 32

/-- The checks of the buffer and of the chunk pass (43_rate_control.md R307, R309). -/
structure UpdateBounded (s : State) : Prop extends UpdateStart s where
  fits : updFullness s ≤ s.cfg .rcModelSize
  held : 0 ≤ updFullness s ∨ updVbr s
  bytes : updLast s → updVbr s → 0 ≤ updChunkBits s ∧ updChunkBits s ≤ 524280

/-- `RC_UPDATE` can run on this state to its end: the check of the model passes too (43_rate_control.md R312). -/
structure UpdateReady (s : State) : Prop extends UpdateBounded s where
  model : updModel s < 0

/-- The state that `RC_UPDATE` leaves when it runs to its end (43_rate_control.md R305 to R330; the reset of
`chunkPixelCount` at a chunk boundary is log entry 7). -/
def afterUpdate (s : State) : State :=
  { s with
    pos := { s.pos with pixelCount := BitVec.ofNat 32 (s.pos.pixelCount.toNat + updPixels s) }
    qp := { masterQp := BitVec.ofInt 5 (updMasterQp s), prevQp := s.qp.masterQp }
    buf :=
      { bufferFullness := BitVec.ofInt 32 (updHeld s)
        bpgFracAccum := BitVec.ofNat 4 (updFrac s % 16)
        removalStarted := s.buf.removalStarted || decide (0 < updTimes s)
        chunkPixelCount :=
          if updLast s then 0 else BitVec.ofNat 32 (s.buf.chunkPixelCount.toNat + updTimes s)
        numBitsChunk :=
          BitVec.ofInt 32
            (if updLast s then (if updVbr s then 0 else updChunkBits s - 8 * s.cfg .chunkSize) else updChunkBits s)
        clampedBits :=
          BitVec.ofInt 32
            (s.buf.clampedBits.toNat + (updHeld s - updFullness s)
              + (if updLast s ∧ updVbr s then 8 * updChunkBytes s - updChunkBits s else 0))
        chunkIndex := if updLast s then s.buf.chunkIndex + 1 else s.buf.chunkIndex }
    rc :=
      { rcXformScale := BitVec.ofNat 6 (updScale s).1
        rcXformOffsetFx := BitVec.ofInt 32 (updOffset s)
        scaleDecCount := BitVec.ofNat 16 (updScale s).2.1
        scaleIncCount := BitVec.ofNat 16 (updScale s).2.2
        scaleIncrementStart := updCrossed s
        rcModelFullness := BitVec.ofInt 32 (updModel s)
        rcRange := BitVec.ofNat 4 (updRange s)
        rcTgtBitsGroup := BitVec.ofInt 32 (updTarget s) }
    size := { s.size with rcSizeGroupPrev := s.size.rcSizeGroup }
    mode := { s.mode with forceMpp := updForce s, groupPending := false }
    flat := updFlat s
    io :=
      if updLast s ∧ updVbr s then
        { s.io with chunkOut := s.io.chunkOut ++ [BitVec.ofInt 16 (updChunkBytes s)] }
      else s.io
    port := { s.port with res := BitVec.ofInt 32 (updMasterQp s) } }

/-- The state after steps 1 and 2 of an update, in which the bounds are checked (43_rate_control.md R305, R306). -/
def afterRemoval (s : State) : State :=
  { s with
    pos := { s.pos with pixelCount := BitVec.ofNat 32 (s.pos.pixelCount.toNat + updPixels s) }
    buf :=
      { s.buf with
        bufferFullness := BitVec.ofInt 32 (updFullness s)
        bpgFracAccum := BitVec.ofNat 4 (updFrac s % 16)
        removalStarted := s.buf.removalStarted || decide (0 < updTimes s)
        chunkPixelCount := BitVec.ofNat 32 (s.buf.chunkPixelCount.toNat + updTimes s)
        numBitsChunk := BitVec.ofInt 32 (updChunkBits s) } }

/-- The state after step 3, in which a VBR chunk is checked (43_rate_control.md R307). -/
def afterBounds (s : State) : State :=
  { afterRemoval s with
    buf :=
      { (afterRemoval s).buf with
        bufferFullness := BitVec.ofInt 32 (updHeld s)
        clampedBits := BitVec.ofInt 32 (s.buf.clampedBits.toNat + (updHeld s - updFullness s)) } }

/-- The state after step 6a, in which the model fullness is checked (43_rate_control.md R309 to R311). -/
def afterModel (s : State) : State :=
  { s with
    pos := (afterUpdate s).pos
    buf := (afterUpdate s).buf
    io := (afterUpdate s).io
    rc := { (afterUpdate s).rc with rcRange := s.rc.rcRange, rcTgtBitsGroup := s.rc.rcTgtBitsGroup } }

end Sys2Proof.Machine
end

