-- ==== Sys2Proof/Certificates/Slice0/Obligations.lean ====
section
/-! DEFINITION. The statements for the provers. Each docstring names the rules of spec/ a statement formalises. -/

open Sys2Proof Sys2Proof.Machine

/-! ### Words and steps -/

/-- Decoding the word of a well-formed command gives the command back (30_encoding.md R131, R134, R135). -/
def Obligations.DecodeOfEncode : Prop :=
  ∀ i : Instr, i.wf = true → decode (encode i) = .ok i

/-- A word that decodes is the word of its command, and its command is well formed: no bit of a word is ignored
(30_encoding.md R131 to R133). -/
def Obligations.EncodeOfDecode : Prop :=
  ∀ (w : Word) (i : Instr), decode w = .ok i → i.wf = true ∧ encode i = w

/-- The words the spec writes out decode to the commands it says (45_sequencing.md R410, R415, R416, R418, R419). -/
def Obligations.SpecWordsDecode : Prop :=
  decode 0x00000000#32 = .ok .nop ∧ decode 0x18400000#32 = .ok (.sliceStart true) ∧
    decode 0x20000000#32 = .ok .lineStart ∧ decode 0x28000000#32 = .ok .lineEnd ∧
    decode 0x32000005#32 = .ok (.origWr .i1 5)

/-- A step takes the next presented command: its word and operands go to the ports, and then it runs the command the word
decodes to, or, for a word that encodes none, faults with `F_ILLEGAL_CMD` and the word (30_encoding.md R130, R132). In the
halted block such a word is discarded, unless its opcode is one of the five that still run: then it is illegal and the
first fault stays (60_exceptions.md R444). With no command presented the block holds its state (60_exceptions.md R453).
The model's choices in it: that the presented commands are a queue (log entry 5), that a discarded command still latches
the ports (log entry 15), and which malformed words of a halted block are discarded (log entry 14). -/
def Obligations.StepRunsPresentedCommand : Prop :=
  ∀ s : State,
    (s.pending = [] → step s = .next s) ∧
      ∀ c rest, s.pending = c :: rest →
        let u : State :=
          { s with
            pending := rest
            port := { cmd := c.word, opA := c.opA, opB := c.opB, res := s.port.res } }
        (∀ i, decode c.word = .ok i → step s = exec i u) ∧
          (∀ e, decode c.word = .error e → s.running → step s = .next (u.afterFault .illegalCmd c.word.toInt)) ∧
          ∀ e, decode c.word = .error e → s.st.faulted = true →
            step s =
              .next
                (if c.word.toNat / 2 ^ 27 ∈ [0x00, 0x01, 0x02, 0x03, 0x08] then u.afterFault .illegalCmd c.word.toInt
                else u)

/-- Every command in every state answers a next state, and leaves the command queue and the command and operand ports as
they were (30_encoding.md R130, 60_exceptions.md R443). -/
def Obligations.EveryCommandAnswersNext : Prop :=
  ∀ (i : Instr) (s : State), ∃ t, exec i s = .next t ∧
    t.pending = s.pending ∧ t.port.cmd = s.port.cmd ∧ t.port.opA = s.port.opA ∧ t.port.opB = s.port.opB

/-! ### Faults -/

/-- Fault entry writes exactly what 60_exceptions.md R443 lists, keeps the first fault, and raises `ERR` (R448). -/
def Obligations.FaultEntryRecordsFirst : Prop :=
  ∀ (s : State) (k : FaultKind) (info : Int),
    s.enterFault (raising k info) = s.afterFault k info ∧ (s.afterFault k info).err = true

/-- The halted block discards every command but the five, with no state written, and no command but `SLICE_START` changes
the recorded fault: the first fault wins (60_exceptions.md R444). -/
def Obligations.HaltedBlockKeepsFault : Prop :=
  ∀ (i : Instr) (s t : State), s.st.faulted = true → exec i s = .next t →
    (runsHalted i = false → t = s) ∧
    ((∀ d, i ≠ .sliceStart d) →
      t.st.faulted = true ∧ t.st.faultCode = s.st.faultCode ∧ t.st.faultInfo = s.st.faultInfo ∧
        t.st.faultCmd = s.st.faultCmd)

/-- A command in a state where the table of 70_reset_and_hazards.md R482 names a fault raises that fault and has none of
its effect. A pending group without an active slice, which no run reaches, is left out: `RC_UPDATE` tests
`groupPending` alone (43_rate_control.md R330). -/
def Obligations.AcceptanceTable : Prop :=
  ∀ (i : Instr) (s : State) (k : FaultKind) (info : Int), s.running →
    (s.mode.groupPending = true → s.st.sliceActive = true) → tableFault i s = some (k, info) →
    exec i s = .next (s.afterFault k info)

/-- The status fields have these writers and no other: only `SLICE_START` sets the direction and `stateValid`, which no
command clears; `sliceActive` rises only in `SLICE_START`, and falls only in `LINE_END` or in a fault; `sliceDone` rises
only in `LINE_END`, and falls only in `SLICE_START` and `CFG_WR`; `cfgValid` rises only in `CFG_CHECK`, and falls only in
`CFG_WR` and in a failing `CFG_CHECK` (the latter is log entry 13) (10_state.md R38). A command of a block that is not
halted either faults, and then records its own word, a code and the end of the slice, or leaves `FAULT_INFO` and
`FAULT_CMD`, and the code too unless it is `SLICE_START`, which clears it (R39, 60_exceptions.md R443, R445). -/
def Obligations.StatusFieldWriters : Prop :=
  ∀ (i : Instr) (s t : State), exec i s = .next t →
    (t.st.isEncoder ≠ s.st.isEncoder → i = .sliceStart t.st.isEncoder) ∧
    (s.st.stateValid = true → t.st.stateValid = true) ∧
    (s.st.stateValid = false → t.st.stateValid = true → ∃ d, i = .sliceStart d) ∧
    (s.st.sliceActive = false → t.st.sliceActive = true → ∃ d, i = .sliceStart d) ∧
    (s.st.sliceDone = false → t.st.sliceDone = true → i = .lineEnd) ∧
    (s.st.cfgValid = false → t.st.cfgValid = true → i = .cfgCheck) ∧
    (s.st.sliceActive = true → t.st.sliceActive = false → i = .lineEnd ∨ t.st.faulted = true) ∧
    (s.st.sliceDone = true → t.st.sliceDone = false → (∃ a, i = .cfgWr a) ∨ ∃ d, i = .sliceStart d) ∧
    (s.st.cfgValid = true → t.st.cfgValid = false → (∃ a, i = .cfgWr a) ∨ i = .cfgCheck ∧ t.st.faulted = true) ∧
    (s.running → t.st.faulted = true →
      t.st.faultCmd = s.port.cmd ∧ t.st.faultCode.isSome = true ∧ t.st.sliceActive = false) ∧
    (s.running → t.st.faulted = false →
      t.st.faultInfo = s.st.faultInfo ∧ t.st.faultCmd = s.st.faultCmd ∧
        (t.st.faultCode = s.st.faultCode ∨ (∃ d, i = .sliceStart d) ∧ t.st.faultCode = none))

/-! ### What a command leaves alone -/

/-- Each memory has these writers and no other: a byte of the PPS image changes only by a `CFG_WR` of its index while no
slice is active (10_state.md R35); `cur` by the group commands, `prev` by `LINE_END`, `orig` by `ORIG_WR` (20_memory.md
R103), beside the commands that make them unspecified (45_sequencing.md R415, R416, R418). -/
def Obligations.MemoryWriters : Prop :=
  ∀ (i : Instr) (s t : State), Memory.wf s.mem → exec i s = .next t →
    (∀ a, memRead t.mem a ≠ memRead s.mem a → i = .cfgWr a ∧ s.st.sliceActive = false) ∧
    (t.cur ≠ s.cur → i = .encGroup ∨ i = .decGroup ∨ i = .lineStart ∨ ∃ d, i = .sliceStart d) ∧
    (t.prev ≠ s.prev → i = .lineEnd ∨ ∃ d, i = .sliceStart d) ∧
    (t.orig ≠ s.orig → (∃ c k, i = .origWr c k) ∨ i = .lineEnd ∨ ∃ d, i = .sliceStart d)

/-- The commands that only observe write `res` and nothing else, or end in a fault (45_sequencing.md R425, R428). -/
def Obligations.ObserversWriteOnlyResult : Prop :=
  ∀ (i : Instr) (s t : State),
    (rowOf i = .quantizer ∨ rowOf i = .reader ∨ (∃ idx, i = .regRd idx) ∨ (∃ gs, i = .ichTest gs) ∨
      (∃ h, i = .ichPick h) ∨ ∃ gs, i = .flatDetect gs) →
    exec i s = .next t →
    t = s ∨ (∃ v, t = s.withResult v) ∨ ∃ k info, t = s.afterFault k info

/-! ### Housekeeping and configuration -/

/-- `NOP` writes nothing, in every state (45_sequencing.md R410). -/
def Obligations.NopKeepsState : Prop := ∀ s : State, exec .nop s = .next s

/-- `CFG_WR` (45_sequencing.md R411), whole, with log entry 8, the model's reading: a `CFG_WR` that faults leaves
`cfgValid` and `sliceDone`, though 10_state.md R35 says that any `CFG_WR` sets `cfgValid` to 0. Locked while a slice is
active; a byte in range lands in `cfgbyte[idx]` with its reserved bits forced to 0 and no other byte changes; 0x0100 is
the flatness threshold; any other index is bad. A write clears `cfgValid` and `sliceDone`. -/
def Obligations.CfgWrRule : Prop :=
  ∀ (s : State) (idx : Nat), Memory.wf s.mem →
    let v := s.port.opA.toInt
    let cleared : Status := { s.st with cfgValid := false, sliceDone := false }
    (s.st.sliceActive = true → exec (.cfgWr idx) s = .next (s.afterFault .cfgLocked idx)) ∧
    (s.st.sliceActive = false → idx ≤ 0x007F → 0 ≤ v → v ≤ 255 →
      ∃ m, exec (.cfgWr idx) s = .next { s with mem := m, st := cleared } ∧
        (∀ a, a ≠ idx → memRead m a = memRead s.mem a) ∧
        ∀ b < 8, (memRead m idx).getLsbD b = (s.port.opA.getLsbD b && !ppsBitReserved (8 * idx + (7 - b)))) ∧
    (s.st.sliceActive = false → idx ≤ 0x007F → (v < 0 ∨ 255 < v) →
      exec (.cfgWr idx) s = .next (s.afterFault .range v)) ∧
    (s.st.sliceActive = false → idx = 0x0100 → 0 ≤ v → v ≤ 65535 →
      exec (.cfgWr idx) s = .next { s with flatThresh := BitVec.ofInt 16 v, st := cleared }) ∧
    (s.st.sliceActive = false → idx = 0x0100 → (v < 0 ∨ 65535 < v) →
      exec (.cfgWr idx) s = .next (s.afterFault .range v)) ∧
    (s.st.sliceActive = false → 0x007F < idx → idx ≠ 0x0100 →
      exec (.cfgWr idx) s = .next (s.afterFault .badIndex idx))

/-- The multi-byte fields of the PPS image are big-endian: the high byte of a field is the lower-numbered byte, and range
j is the 16-bit word at bytes 58 + 2j and 59 + 2j (20_memory.md R105; the positions of 30_encoding.md R140 and the range
word of R141 are the spec's inferences, marked derived). -/
def Obligations.PpsFieldsAreBigEndian : Prop :=
  ∀ m : Memory,
    let b (a : Nat) : Nat := (memRead m a).toNat
    cfgOf m .picHeight = 256 * b 6 + b 7 ∧ cfgOf m .picWidth = 256 * b 8 + b 9 ∧
    cfgOf m .sliceHeight = 256 * b 10 + b 11 ∧ cfgOf m .sliceWidth = 256 * b 12 + b 13 ∧
    cfgOf m .chunkSize = 256 * b 14 + b 15 ∧ cfgOf m .rcModelSize = 256 * b 38 + b 39 ∧
    cfgOf m .bitsPerPixel = 256 * (b 4 % 4) + b 5 ∧ cfgOf m .initialXmitDelay = 256 * (b 16 % 4) + b 17 ∧
    cfgOf m .initialDecDelay = 256 * b 18 + b 19 ∧ cfgOf m .scaleIncrementInterval = 256 * b 22 + b 23 ∧
    cfgOf m .scaleDecrementInterval = 256 * (b 24 % 16) + b 25 ∧ cfgOf m .nflBpgOffset = 256 * b 28 + b 29 ∧
    cfgOf m .sliceBpgOffset = 256 * b 30 + b 31 ∧ cfgOf m .initialOffset = 256 * b 32 + b 33 ∧
    cfgOf m .finalOffset = 256 * b 34 + b 35 ∧
    (∀ i < 14, cfgOf m (.rcBufThresh i) = b (44 + i)) ∧
    ∀ j < 15,
      cfgOf m (.rangeMinQp j) * 2048 + cfgOf m (.rangeMaxQp j) * 64 + cfgOf m (.rangeBpgOffset j) =
        256 * b (58 + 2 * j) + b (59 + 2 * j)

/-- `CFG_CHECK` of a legal configuration passes: `cfgValid` and `res` become 1, a flatness threshold of 0 takes its
default, and NG is computed (45_sequencing.md R413, 10_state.md R34, R36). -/
def Obligations.CfgCheckPassesLegal : Prop :=
  ∀ s : State, s.st.sliceActive = false → LegalConfig s →
    exec .cfgCheck s =
      .next
        { s with
          flatThresh := if s.flatThresh = 0 then BitVec.ofNat 16 (2 * 2 ^ (s.bpc - 8)) else s.flatThresh
          ngChecked := BitVec.ofNat 12 ((s.cfg .sliceWidth + 2) / 3)
          st := { s.st with cfgValid := true }
          port := { s.port with res := 1 } }

/-- `CFG_CHECK` of a configuration that is not legal leaves `cfgValid` 0 and ends in the fault of the FIRST failing check
in the order of 45_sequencing.md R413, with the first stream bit of its field. The model's choices: that a failing check
clears a set `cfgValid` (log entry 13), and that which of the two fields of a failing pair is named is free (log
entry 4). -/
def Obligations.CfgCheckRefusesIllegal : Prop :=
  ∀ s : State, s.st.sliceActive = false → ¬ LegalConfig s →
    ∃ (before after : List FieldCheck) (c : FieldCheck) (f : PpsField),
      fieldChecks s ++ tableChecks s = before ++ c :: after ∧ (∀ b ∈ before, b.ok = true) ∧ c.ok = false ∧
        f ∈ c.fields ∧
        exec .cfgCheck s =
          .next (({ s with st := { s.st with cfgValid := false } } : State).afterFault c.kind f.first)

/-! ### Slices and lines -/

/-- `SLICE_START` with a checked configuration starts a slice: it leaves the fault state, sets the direction, and gives
every codec register its slice-start value, invalidates the ICH and empties the line buffers; the configuration and the
environment's streams are untouched. Without a checked configuration it still leaves the fault state first, and records
`F_SEQUENCE` of this very command (45_sequencing.md R415, 70_reset_and_hazards.md R484, 60_exceptions.md R445). That the
history elements at NG and above keep what they hold is the model's reading, log entry 9. -/
def Obligations.SliceStartRule : Prop :=
  ∀ (s : State) (d : Bool), s.st.sliceActive = false →
    (s.st.cfgValid = false →
      exec (.sliceStart d) s =
        .next
          { s with
            st :=
              { s.st with
                faulted := true
                faultCode := some .sequence
                faultInfo := 0
                faultCmd := s.port.cmd
                sliceActive := false }
            mode := { s.mode with lineOpen := false, groupPending := false } }) ∧
    (s.st.cfgValid = true →
    ∃ t, exec (.sliceStart d) s = .next t ∧
      t.st =
        { s.st with
          faulted := false
          faultCode := none
          sliceActive := true
          isEncoder := d
          sliceDone := false
          stateValid := true } ∧
      t.pos = ⟨0, 0, 0, 0, 0, 0⟩ ∧ t.qp = ⟨0, 0⟩ ∧ t.buf = ⟨0, 0, false, 0, 0, 0, 0⟩ ∧
      t.rc.rcXformScale.toNat = s.cfg .initialScaleValue ∧
      t.rc.rcXformOffsetFx.toInt = ((s.cfg .initialOffset : Int) - s.cfg .rcModelSize) * 2048 ∧
      t.rc.rcModelFullness.toInt = -(s.cfg .rcModelSize : Int) ∧
      t.rc.scaleDecCount = 0 ∧ t.rc.scaleIncCount = 0 ∧ t.rc.scaleIncrementStart = false ∧ t.rc.rcRange = 0 ∧
      t.rc.rcTgtBitsGroup = 0 ∧
      t.size = ⟨0, 0, 0, Tri.fill 0, 0, Tri.fill 0, Tri.fill false⟩ ∧
      t.mode = ⟨false, false, false, Tri.fill 0, false, false⟩ ∧
      t.flat = ⟨⟨false, false, 0⟩, ⟨false, false, 0⟩, 0, .none⟩ ∧
      (∀ g < s.ng, t.bp.ptypeCur.getD g .left = .left ∧ t.bp.ptypeNext.getD g .left = .map ∧
        t.bp.bpVecCur.getD g 0 = 3 ∧ t.bp.bpVecNext.getD g 0 = 3) ∧
      (∀ g, s.ng ≤ g → t.bp.ptypeCur.getD g .left = s.bp.ptypeCur.getD g .left ∧
        t.bp.ptypeNext.getD g .left = s.bp.ptypeNext.getD g .left ∧ t.bp.bpVecCur.getD g 0 = s.bp.bpVecCur.getD g 0 ∧
        t.bp.bpVecNext.getD g 0 = s.bp.bpVecNext.getD g 0) ∧
      (∀ k j, ((t.bp.window.get k).bp.getD j 0) = 0 ∧ (t.bp.window.get k).map = 0) ∧
      t.bp.bpRun = 0 ∧ t.bp.edgeHold = 0 ∧ t.bp.bpGroupsSeen = 0 ∧ t.bp.ngSlice = BitVec.ofNat 12 s.ng ∧
      (∀ c i, (t.scratch.qres.get c).get i = 0 ∧ (t.scratch.pred.get c).get i = 0) ∧
      (∀ c i, storeRead (t.prev.get c) i = none ∧ storeRead (t.cur.get c) i = none ∧
        storeRead (t.orig.get c) i = none) ∧
      (∀ k, (ichEntry t k).valid = false) ∧
      t.mem = s.mem ∧ t.flatThresh = s.flatThresh ∧ t.port = s.port ∧ t.pending = s.pending ∧ t.io = s.io ∧
      t.ngChecked = s.ngChecked)

/-- `LINE_START` opens a line: it clears the block-prediction window and the flatness records, resets the position in the
line and makes `cur` unspecified; on a line below the first of a slice narrower than the picture it invalidates the cache
slots 0 to 24 and leaves the others (45_sequencing.md R416, 42_ich.md R271). -/
def Obligations.LineStartOpensLine : Prop :=
  ∀ s : State, s.running → s.st.sliceActive = true → s.mode.lineOpen = false → s.ich.length = 32 →
    ∃ l, exec .lineStart s =
        .next
          { s with
            bp :=
              { s.bp with
                window := Tri.fill ⟨List.replicate 8 0, 0⟩
                bpGroupsSeen := 0
                bpRun := 0
                edgeHold := 0 }
            flat := { s.flat with sgPos := 0, flatCur := ⟨false, false, 0⟩, flatNext := ⟨false, false, 0⟩ }
            pos := { s.pos with hPos := 0, groupInLine := 0 }
            cur := Tri.fill []
            mode := { s.mode with lineOpen := true }
            ich := l } ∧
      ((s.vPos = 0 ∨ s.cfg .picWidth ≤ s.cfg .sliceWidth) → l = s.ich) ∧
      (1 ≤ s.vPos → s.cfg .sliceWidth < s.cfg .picWidth →
        (∀ k < 25, (l.getD k IchEntry.empty).valid = false) ∧
          ∀ k, 25 ≤ k → l.getD k IchEntry.empty = s.ich.getD k IchEntry.empty)

/-- `LINE_END` copies the line, reduced, into `prev`, makes the next line's predictor classes of the NG groups current and
no others, advances `vPos`, closes the line, forgets the originals and ends the slice after its last line
(45_sequencing.md R418). -/
def Obligations.LineEndClosesLine : Prop :=
  ∀ (s : State) (x : Cpnt → Nat → Sample), s.running → s.st.sliceActive = true → s.mode.lineOpen = true →
    s.mode.groupPending = false → s.width ≤ s.hPos → s.vPos < s.height →
    (∀ c i, i < s.width → storeRead (s.cur.get c) i = some (x c i)) →
    ∃ t, exec .lineEnd s = .next t ∧
      (∀ c i, storeRead (t.prev.get c) i =
        if i < s.width then some (BitVec.ofInt 16 (reduceSample s c (x c i).toNat)) else storeRead (s.prev.get c) i) ∧
      (∀ g < s.ng, t.bp.ptypeCur.getD g .left = s.bp.ptypeNext.getD g .left ∧
        t.bp.bpVecCur.getD g 0 = s.bp.bpVecNext.getD g 0) ∧
      (∀ g, s.ng ≤ g → t.bp.ptypeCur.getD g .left = s.bp.ptypeCur.getD g .left ∧
        t.bp.bpVecCur.getD g 0 = s.bp.bpVecCur.getD g 0) ∧
      t =
        { s with
          prev := t.prev
          bp := { s.bp with ptypeCur := t.bp.ptypeCur, bpVecCur := t.bp.bpVecCur }
          pos := { s.pos with vPos := s.pos.vPos + 1, hPos := 0, groupInLine := 0 }
          mode := { s.mode with lineOpen := false }
          orig := Tri.fill []
          st :=
            if s.vPos + 1 = s.height then { s.st with sliceDone := true, sliceActive := false } else s.st }

/-- `LINE_END` with a line still open to coding raises `F_SEQUENCE` (45_sequencing.md R418, 70_reset_and_hazards.md
R495); so does a group command with a group pending or past the line (44_entropy.md R370, R375) and `RC_UPDATE` with
none pending (43_rate_control.md R330). -/
def Obligations.OutOfOrderFaults : Prop :=
  ∀ s : State, s.running → s.st.sliceActive = true →
    ((s.mode.lineOpen = false ∨ s.mode.groupPending = true ∨ s.hPos < s.width) →
      exec .lineEnd s = .next (s.afterFault .sequence 0)) ∧
    (s.mode.lineOpen = true → exec .lineStart s = .next (s.afterFault .sequence 0)) ∧
    (s.mode.groupPending = false → exec .rcUpdate s = .next (s.afterFault .sequence 0)) ∧
    ((s.mode.lineOpen = false ∨ s.mode.groupPending = true ∨ s.width ≤ s.hPos) →
      (s.st.isEncoder = true → exec .encGroup s = .next (s.afterFault .sequence 0)) ∧
        (s.st.isEncoder = false → exec .decGroup s = .next (s.afterFault .sequence 0)))

/-- `reduce(c, x)` (45_sequencing.md R417), and what the rule gives: with no reduction x itself; else a multiple of the
reduction's step inside the sample range, within half a step of x unless it saturates at the last step. -/
def Obligations.ReduceRule : Prop :=
  ∀ (s : State) (c : Cpnt) (x : Nat), x ≤ s.maxval c →
    let k := s.depth c - s.lbd c
    (k = 0 → reduceSample s c x = x) ∧
    (0 < k → reduceSample s c x = (min ((x + 2 ^ (k - 1)) / 2 ^ k) (2 ^ (s.depth c - k) - 1) * 2 ^ k : Nat)) ∧
    0 ≤ reduceSample s c x ∧ reduceSample s c x ≤ s.maxval c ∧ (2 ^ k : Int) ∣ reduceSample s c x ∧
    2 * (reduceSample s c x - x) ≤ 2 ^ k ∧
    (2 * (x - reduceSample s c x) ≤ 2 ^ k ∨ reduceSample s c x = (s.maxval c + 1 : Int) - 2 ^ k)

/-! ### Samples and registers -/

/-- `ORIG_WR` writes one original sample and nothing else; an index or a value out of range raises `F_RANGE`
(45_sequencing.md R419, 20_memory.md R103). -/
def Obligations.OrigWrRule : Prop :=
  ∀ (s : State) (c : Cpnt) (i : Nat), s.running → s.encoding →
    let v := s.port.opA.toInt
    (s.width ≤ i → exec (.origWr c i) s = .next (s.afterFault .range i)) ∧
    (i < s.width → (v < 0 ∨ (s.maxval c : Int) < v) → exec (.origWr c i) s = .next (s.afterFault .range v)) ∧
    (i < s.width → 0 ≤ v → v ≤ s.maxval c →
      ∃ o, exec (.origWr c i) s = .next { s with orig := o } ∧
        ∀ c' i', storeRead (o.get c') i' =
          if c' = c ∧ i' = i then some (BitVec.ofInt 16 v) else storeRead (s.orig.get c') i')

/-- `PIX_RD` returns a written sample of the current line; an unspecified one raises `F_UNINIT` and an index past the
padding `F_RANGE` (45_sequencing.md R420, 10_state.md R49). -/
def Obligations.PixRdRule : Prop :=
  ∀ (s : State) (c : Cpnt) (i : Nat), s.running → s.inSlice →
    (s.width + 2 ≤ i → exec (.pixRd c i) s = .next (s.afterFault .range i)) ∧
    (i < s.width + 2 → ∀ v, storeRead (s.cur.get c) i = some v →
      exec (.pixRd c i) s = .next (s.withResult v.toNat)) ∧
    (i < s.width + 2 → storeRead (s.cur.get c) i = none →
      exec (.pixRd c i) s = .next (s.afterFault .uninit (2 * 2 ^ 28 + c.toNat * 2 ^ 24 + i % 2 ^ 16)))

/-- `REG_RD` in every state, halted or not: the PPS bytes, the flatness threshold, `STATUS` bit by bit, `FAULT_INFO` and
`FAULT_CMD`; every unmapped index raises `F_BAD_INDEX` (20_memory.md R101, 45_sequencing.md R421, 10_state.md R38, R39).
How many history elements are mapped when the configuration has changed after a slice is the model's choice, log
entry 9: NG of the last `CFG_CHECK` that passed, and no fewer than the slice has. -/
def Obligations.RegRdStatusAndConfig : Prop :=
  ∀ s : State,
    (∀ idx ≤ 0x007F, exec (.regRd idx) s = .next (s.withResult (memRead s.mem idx).toNat)) ∧
    exec (.regRd 0x0100) s = .next (s.withResult s.flatThresh.toNat) ∧
    (∃ w : Word, exec (.regRd 0x0200) s = .next (s.withResult w.toInt) ∧
      w.getLsbD 0 = s.st.faulted ∧ w.getLsbD 1 = s.st.cfgValid ∧ w.getLsbD 2 = s.st.sliceActive ∧
      w.getLsbD 3 = s.st.isEncoder ∧ w.getLsbD 4 = s.st.sliceDone ∧ w.getLsbD 5 = s.st.stateValid ∧
      w.toNat / 64 % 4 = 0 ∧ w.toNat / 256 = (s.st.faultCode.map faultCodeOf).getD 0) ∧
    exec (.regRd 0x0201) s = .next (s.withResult s.st.faultInfo.toInt) ∧
    exec (.regRd 0x0202) s = .next (s.withResult s.st.faultCmd.toInt) ∧
    (∀ r ∈ unmappedRanges, ∀ idx, r.1 ≤ idx → idx ≤ r.2 →
      exec (.regRd idx) s = .next (s.afterFault .badIndex idx)) ∧
    ∀ base ∈ [0x8000, 0xA000, 0xC000, 0xE000], ∀ g, max s.ngChecked.toNat s.bp.ngSlice.toNat ≤ g → g < 0x2000 →
      exec (.regRd (base + g)) s = .next (s.afterFault .badIndex (base + g : Nat))

/-- `REG_RD` of the codec state at the indices of 10_state.md R40 to R48 and of the ICH and the block-prediction history
(20_memory.md R100, R101), once a slice has started; before that every one of these indices raises `F_NOT_ACTIVE` with the
index (45_sequencing.md R421). How many history elements are mapped when the configuration has changed after a slice, and
what the elements that the slice did not set read, is the model's choice, log entry 9. -/
def Obligations.RegRdCodecState : Prop :=
  ∀ s : State,
    let reads (idx : Nat) (v : Int) : Prop := exec (.regRd idx) s = .next (s.withResult v)
    (s.st.stateValid = true →
      (∀ r ∈ codingRegs s ++ groupRegs s, reads r.1 r.2) ∧
      (∀ c : Cpnt, reads (0x0343 + c.toNat) (s.size.predictedSize.get c).toNat ∧
        reads (0x0347 + c.toNat) (s.size.sizeUsed.get c).toNat ∧ reads (0x034A + c.toNat) (s.size.mppUsed.get c).toNat ∧
        reads (0x0353 + c.toNat) (s.mode.ichIdx.get c).toNat ∧
        reads (0x0388 + c.toNat) (s.bp.window.get c).map.toNat) ∧
      (∀ k j, j < 8 → reads (0x0370 + 8 * k.toNat + j) (((s.bp.window.get k).bp.getD j 0).toNat)) ∧
      (∀ c i : Idx3, reads (0x03A0 + 3 * c.toNat + i.toNat) ((s.scratch.qres.get c).get i).toInt ∧
        reads (0x03B0 + 3 * c.toNat + i.toNat) ((s.scratch.pred.get c).get i).toInt) ∧
      (∀ k < 32,
        (∀ c : Cpnt, reads (0x1000 + 4 * k + c.toNat)
          (if (ichEntry s k).valid = true then (((ichEntry s k).v.get c).toNat : Int) else 0)) ∧
          reads (0x1000 + 4 * k + 3) (ichEntry s k).valid.toNat) ∧
      (∀ g < max s.ngChecked.toNat s.bp.ngSlice.toNat,
        reads (0x8000 + g) (s.bp.ptypeCur.getD g .left).toNat ∧ reads (0xA000 + g) (s.bp.bpVecCur.getD g 0).toNat ∧
          reads (0xC000 + g) (s.bp.ptypeNext.getD g .left).toNat ∧ reads (0xE000 + g) (s.bp.bpVecNext.getD g 0).toNat)) ∧
    (s.st.stateValid = false →
      (∀ r ∈ codecRanges, ∀ idx, r.1 ≤ idx → idx ≤ r.2 →
        exec (.regRd idx) s = .next (s.afterFault .notActive idx)) ∧
        ∀ base ∈ [0x8000, 0xA000, 0xC000, 0xE000], ∀ g < max s.ngChecked.toNat s.bp.ngSlice.toNat,
          exec (.regRd (base + g)) s = .next (s.afterFault .notActive (base + g : Nat)))

/-- The padded line-buffer reads (20_memory.md R102): replication left and right of `prev` and `orig`, and left of `cur`,
where line 0 has the middle of the range; an element not written raises `F_UNINIT`, and so does `prev` on line 0. -/
def Obligations.LineBufferPadding : Prop :=
  ∀ (s : State) (c : Cpnt) (i : Int), 1 ≤ s.width →
    let cell (b : LineBuf) (k : Nat) : Option Int := (storeRead (b.get c) k).map (fun v => (v.toNat : Int))
    let opt (r : Rd Int) : Option Int := r.toOption
    (1 ≤ s.vPos → opt (prevRead s c i) = cell s.prev (edgeIndex s.width i)) ∧
    (s.vPos = 0 → ∃ info, prevRead s c i = .error (raising .uninit info)) ∧
    (0 ≤ i → opt (curRead s c i) = cell s.cur i.toNat) ∧
    (i < 0 → s.vPos = 0 → curRead s c i = .ok (2 ^ (s.depth c - 1))) ∧
    (i < 0 → 1 ≤ s.vPos → opt (curRead s c i) = cell s.prev 0) ∧
    opt (origRead s c i) = cell s.orig (edgeIndex s.width i) ∧
    (∀ r, curRead s c i = .error r ∨ origRead s c i = .error r ∨ prevRead s c i = .error r → r.kind = .uninit)

/-! ### The quantizer -/

/-- `MAPQ` with a checked legal configuration: the level of the closed form, or `F_RANGE` of a QP outside 0 to the
largest (41_quantizer.md R232, R231). The last two clauses are the spec's inference in R232, marked derived from R231 and
00_scope.md R16. -/
def Obligations.MapqRule : Prop :=
  ∀ (s : State) (c : Cpnt), s.running → s.st.cfgValid = true → (s.bpc = 8 ∨ s.bpc = 10 ∨ s.bpc = 12) →
    let qp := s.port.opA.toInt
    (0 ≤ qp → qp ≤ maxQp s.bpc → exec (.mapq c) s = .next (s.withResult (levelOf s c qp.toNat))) ∧
    ((qp < 0 ∨ (maxQp s.bpc : Int) < qp) → exec (.mapq c) s = .next (s.afterFault .range qp)) ∧
    levelOf s c 0 = 0 ∧ levelOf s c (maxQp s.bpc) = s.depth c - 1

/-- `QUANT` (41_quantizer.md R233, R234). -/
def Obligations.QuantRule : Prop :=
  ∀ s : State, s.running → s.st.cfgValid = true →
    let e := s.port.opA.toInt
    let q := s.port.opB.toInt
    let offset : Int := 2 ^ (q.toNat - 1) - 1
    (q = 0 → exec .quant s = .next (s.withResult e)) ∧
    (1 ≤ q → q ≤ 12 → 0 < e → exec .quant s = .next (s.withResult ((e + offset) / 2 ^ q.toNat))) ∧
    (1 ≤ q → q ≤ 12 → e ≤ 0 → exec .quant s = .next (s.withResult (-((offset - e) / 2 ^ q.toNat)))) ∧
    ((q < 0 ∨ 12 < q) → exec .quant s = .next (s.afterFault .range q))

/-- The properties of `quantize` for q >= 1: odd, a dead zone, and an error of at most half a step, which the
reconstruction clamp can only reduce. The spec infers them from 41_quantizer.md R234 (its R235 is marked derived). -/
def Obligations.QuantizeProperties : Prop :=
  ∀ (e : Int) (q : Nat), 1 ≤ q →
    quantize (-e) q = -quantize e q ∧
    (-2 ^ (q - 1) ≤ e → e ≤ 2 ^ (q - 1) → quantize e q = 0) ∧
    |e - quantize e q * 2 ^ q| ≤ 2 ^ (q - 1) ∧
    ∀ (s : State) (c : Cpnt) (p : Int), 0 ≤ p + e → p + e ≤ s.maxval c →
      |p + e - reconSample s c p (dequantize (quantize e q) q)| ≤ 2 ^ q / 2

/-- `DEQUANT`, exact for a negative operand; a result outside 32 signed bits raises `F_RANGE` (41_quantizer.md R236). -/
def Obligations.DequantRule : Prop :=
  ∀ s : State, s.running → s.st.cfgValid = true →
    let eq := s.port.opA.toInt
    let q := s.port.opB.toInt
    let v := eq * 2 ^ q.toNat
    (0 ≤ q → q ≤ 12 → -2 ^ 31 ≤ v → v < 2 ^ 31 → exec .dequant s = .next (s.withResult v)) ∧
    (0 ≤ q → q ≤ 12 → (v < -2 ^ 31 ∨ 2 ^ 31 ≤ v) → exec .dequant s = .next (s.afterFault .range eq)) ∧
    ((q < 0 ∨ 12 < q) → exec .dequant s = .next (s.afterFault .range q))

/-- `RSIZE` gives 0 for 0, else the least width of two's complement that holds the operand (41_quantizer.md R238). -/
def Obligations.RsizeIsLeastWidth : Prop :=
  ∀ s : State, s.running → s.st.cfgValid = true →
    let eq := s.port.opA.toInt
    ∃ n : Nat, exec .rsize s = .next (s.withResult n) ∧
      (eq = 0 → n = 0) ∧
      (eq ≠ 0 → 1 ≤ n ∧ -2 ^ (n - 1) ≤ eq ∧ eq ≤ 2 ^ (n - 1) - 1 ∧
        ∀ m, 1 ≤ m → -2 ^ (m - 1) ≤ eq → eq ≤ 2 ^ (m - 1) - 1 → n ≤ m)

/-- `RECON` clamps the sum into the component's range (41_quantizer.md R240). -/
def Obligations.ReconClamps : Prop :=
  ∀ (s : State) (c : Cpnt), s.running → s.st.cfgValid = true →
    let sum := s.port.opA.toInt + s.port.opB.toInt
    ∃ v : Int, exec (.recon c) s = .next (s.withResult v) ∧ 0 ≤ v ∧ v ≤ s.maxval c ∧
      (0 ≤ sum → sum ≤ s.maxval c → v = sum) ∧ (sum < 0 → v = 0) ∧ ((s.maxval c : Int) < sum → v = s.maxval c)

/-! ### Prediction -/

/-- `PRED` of each class, from the reads of 20_memory.md R102; a read of an element not written raises `F_UNINIT` with the
word of the first such element (40_prediction.md R182 to R188, R196, 60_exceptions.md R442). Which element is the first,
and that it is named as replication gives it, is the model's reading, log entry 12. -/
def Obligations.PredRule : Prop :=
  ∀ (s : State) (c : Cpnt) (h : Nat), s.running → s.inSlice →
    let gs : Int := h - h % 3
    let opA := s.port.opA.toInt
    let r0 : Int := (s.port.opB.setWidth 16).toInt
    let r1 : Int := ((s.port.opB >>> 16).setWidth 16).toInt
    (s.width + 1 < h → ∀ p, exec (.pred c p h) s = .next (s.afterFault .range h)) ∧
    (h ≤ s.width + 1 → ∀ v, curRead s c (h - 1) = .ok v → exec (.pred c .left h) s = .next (s.withResult v)) ∧
    (h ≤ s.width + 1 → 3 ≤ opA → opA ≤ 10 → ∀ v, curRead s c (h - opA) = .ok v →
      exec (.pred c .bp h) s = .next (s.withResult v)) ∧
    (h ≤ s.width + 1 → ∀ info, curGap s c (h - 1) = some info →
      exec (.pred c .left h) s = .next (s.afterFault .uninit info)) ∧
    (h ≤ s.width + 1 → 3 ≤ opA → opA ≤ 10 → ∀ info, curGap s c (h - opA) = some info →
      exec (.pred c .bp h) s = .next (s.afterFault .uninit info)) ∧
    (h ≤ s.width + 1 → 0 ≤ opA → opA ≤ s.depth c → ∀ info,
      firstGap (curGap s c (gs - 1) :: [-2, -1, 0, 1, 2, 3].map (fun j => prevGap s c (gs + j))) = some info →
      exec (.pred c .map h) s = .next (s.afterFault .uninit info)) ∧
    (h ≤ s.width + 1 → (opA < 3 ∨ 10 < opA) → exec (.pred c .bp h) s = .next (s.afterFault .range opA)) ∧
    (h ≤ s.width + 1 → (opA < 0 ∨ (s.depth c : Int) < opA) →
      exec (.pred c .map h) s = .next (s.afterFault .range opA)) ∧
    (h ≤ s.width + 1 → 0 ≤ opA → opA ≤ s.depth c →
      ∀ a cc c' b d e f, curRead s c (gs - 1) = .ok a → prevRead s c (gs - 2) = .ok cc → prevRead s c (gs - 1) = .ok c' →
        prevRead s c gs = .ok b → prevRead s c (gs + 1) = .ok d → prevRead s c (gs + 2) = .ok e →
        prevRead s c (gs + 3) = .ok f →
        exec (.pred c .map h) s =
          .next (s.withResult
            (mapFormula (h % 3) a (blendFormula opA.toNat cc c' b) (blendFormula opA.toNat c' b d)
              (blendFormula opA.toNat b d e) (blendFormula opA.toNat d e f) r0 r1)))

/-- The MAP prediction lies in the component's range when the samples it reads do, whatever the residuals folded in: what
40_prediction.md R185 infers from R183 ("P lies in 0..`maxval[c]`", marked derived). -/
def Obligations.MapPredictionInRange : Prop :=
  ∀ (s : State) (c : Cpnt) (gs : Int) (i : Pix) (q : Nat) (r0 r1 p : Int),
    (∀ j v, curRead s c j = .ok v → 0 ≤ v ∧ v ≤ s.maxval c) → (∀ j v, prevRead s c j = .ok v → 0 ≤ v ∧ v ≤ s.maxval c) →
    mapPred s c gs i q r0 r1 = .ok p → 0 ≤ p ∧ p ≤ s.maxval c

/-- `MIDPOINT`: the middle of the range with the low bits of the sample left of the group; a group start or a level out
of range raises `F_RANGE`, and a sample not written `F_UNINIT` with its word (40_prediction.md R189, R198,
60_exceptions.md R442). -/
def Obligations.MidpointRule : Prop :=
  ∀ (s : State) (c : Cpnt) (gs : Nat), s.running → s.inSlice →
    let q := s.port.opA.toInt
    ((gs % 3 ≠ 0 ∨ s.width ≤ gs) → exec (.midpoint c gs) s = .next (s.afterFault .range gs)) ∧
    (gs % 3 = 0 → gs < s.width → (q < 0 ∨ (s.depth c : Int) ≤ q) →
      exec (.midpoint c gs) s = .next (s.afterFault .range q)) ∧
    (gs % 3 = 0 → gs < s.width → 0 ≤ q → q < s.depth c → ∀ info, curGap s c (gs - 1) = some info →
      exec (.midpoint c gs) s = .next (s.afterFault .uninit info)) ∧
    (gs % 3 = 0 → gs < s.width → 0 ≤ q → q < s.depth c → ∀ left, curRead s c (gs - 1) = .ok left →
      exec (.midpoint c gs) s = .next (s.withResult (2 ^ (s.depth c - 1) + left % 2 ^ q.toNat)))

/-! ### The index cache -/

/-- `ICH_LOOKUP`: a valid cache slot gives its value and an invalid one raises `F_UNINIT`; below line 0 the entry numbers
25 to 31 name the seven samples of the line above around the group, and one not written raises `F_UNINIT` with its word
(42_ich.md R261, R262, R264, 60_exceptions.md R442; the element named is log entry 12). -/
def Obligations.IchLookupRule : Prop :=
  ∀ (s : State) (c : Cpnt) (k : Nat), s.running → s.inSlice →
    let h := s.port.opA.toInt
    let gs : Int := h - h % 3
    (32 ≤ k → exec (.ichLookup c k) s = .next (s.afterFault .range k)) ∧
    (k < 32 → (h < 0 ∨ (s.width : Int) ≤ h) → exec (.ichLookup c k) s = .next (s.afterFault .range h)) ∧
    (k < 32 → 0 ≤ h → h < s.width → (s.vPos = 0 ∨ k < 25) → (ichEntry s k).valid = true →
      exec (.ichLookup c k) s = .next (s.withResult ((ichEntry s k).v.get c).toNat)) ∧
    (k < 32 → 0 ≤ h → h < s.width → (s.vPos = 0 ∨ k < 25) → (ichEntry s k).valid = false →
      exec (.ichLookup c k) s = .next (s.afterFault .uninit (4 * 2 ^ 28 + k))) ∧
    (25 ≤ k → k < 32 → 0 ≤ h → h < s.width → 1 ≤ s.vPos → ∀ info, entryGap s k c gs = some info →
      exec (.ichLookup c k) s = .next (s.afterFault .uninit info)) ∧
    (25 ≤ k → k < 32 → 0 ≤ h → h < s.width → 1 ≤ s.vPos → ∀ v,
      storeRead (s.prev.get c) (edgeIndex s.width (max 3 (min (gs + 1) ((s.width : Int) - 4)) + (k - 25) - 3)) = some v →
      exec (.ichLookup c k) s = .next (s.withResult v.toNat))

/-- `ICH_TEST` answers 1 when each of the three original pixels is within the maximum quantization error of some valid
entry in every component, else 0; a read of an element not written raises `F_UNINIT` with the word of the first such
element (42_ich.md R265, R266, 41_quantizer.md R237, 60_exceptions.md R442). Which element is the first is the model's
reading, log entries 10 and 12. -/
def Obligations.IchTestRule : Prop :=
  ∀ (s : State) (gs : Nat) (o : Cpnt → Nat → Int) (v : Nat → Cpnt → Int), s.running → s.encoding → LegalConfig s →
    s.masterQp ≤ maxQp s.bpc →
    ((gs % 3 ≠ 0 ∨ s.width ≤ gs) → exec (.ichTest gs) s = .next (s.afterFault .range gs)) ∧
    (gs % 3 = 0 → gs < s.width → ∀ info,
      firstGap ([0, 1, 2].flatMap (fun i : Nat => pixelGaps s (gs + i : Nat) gs)) = some info →
      exec (.ichTest gs) s = .next (s.afterFault .uninit info)) ∧
    (gs % 3 = 0 → gs < s.width → (∀ c i, i < 3 → origRead s c (gs + i : Nat) = .ok (o c i)) →
      (∀ k < 32, ichValidAt s k = true → ∀ c, historyLookup s k c gs = .ok (v k c)) →
      ∃ b : Bool, exec (.ichTest gs) s = .next (s.withResult b.toNat) ∧
        (b = true ↔ ∀ i < 3, ∃ k < 32, ichValidAt s k = true ∧
          ∀ c, |o c i - v k c| ≤ 2 ^ levelOf s c s.masterQp / 2))

/-- `ICH_PICK` answers the valid entry of least weighted SAD, the lowest number among equals, or -1 with no valid entry; a
read of an element not written raises `F_UNINIT` with the word of the first such element (42_ich.md R267, R268,
60_exceptions.md R442). Which element is the first is the model's reading, log entries 10 and 12. -/
def Obligations.IchPickRule : Prop :=
  ∀ (s : State) (h : Nat) (o : Cpnt → Int) (v : Nat → Cpnt → Int), s.running → s.encoding →
    let sad (k : Nat) : Int := 2 * |o .i0 - v k .i0| + |o .i1 - v k .i1| + |o .i2 - v k .i2|
    (s.width + 2 ≤ h → exec (.ichPick h) s = .next (s.afterFault .range h)) ∧
    (h < s.width + 2 → ∀ info, firstGap (pixelGaps s h ((h - h % 3 : Nat) : Int)) = some info →
      exec (.ichPick h) s = .next (s.afterFault .uninit info)) ∧
    (h < s.width + 2 → (∀ k < 32, ichValidAt s k = false) → exec (.ichPick h) s = .next (s.withResult (-1))) ∧
    (h < s.width + 2 → (∀ c, origRead s c h = .ok (o c)) →
      (∀ k < 32, ichValidAt s k = true → ∀ c, historyLookup s k c ((h - h % 3 : Nat) : Int) = .ok (v k c)) →
      ∀ k0 < 32, ichValidAt s k0 = true →
        ∃ k : Nat, k < 32 ∧ exec (.ichPick h) s = .next (s.withResult k) ∧ ichValidAt s k = true ∧
          ∀ k' < 32, ichValidAt s k' = true → sad k ≤ sad k' ∧ (k' < k → sad k < sad k'))

/-- `updateHistoryElement` on n cache slots: the pixel moves to entry 0 from the first valid slot that holds it, or
replaces the last slot; the slots before it move down one, and no other entry changes (42_ich.md R272). -/
def Obligations.IchUpdateRule : Prop :=
  ∀ (n : Nat) (p : Tri Sample) (l : List IchEntry), 1 ≤ n → n ≤ l.length →
    ∃ j < n,
      ((∃ e, l[j]? = some e ∧ e.valid = true ∧ e.v = p) ∧
          (∀ k < j, ∀ e, l[k]? = some e → ¬ (e.valid = true ∧ e.v = p)) ∨
        j = n - 1 ∧ ∀ k < n, ∀ e, l[k]? = some e → ¬ (e.valid = true ∧ e.v = p)) ∧
      (ichInsert n p l).length = l.length ∧ (ichInsert n p l)[0]? = some ⟨true, p⟩ ∧
      (∀ k, 1 ≤ k → k ≤ j → (ichInsert n p l)[k]? = l[k - 1]?) ∧ ∀ k, j < k → (ichInsert n p l)[k]? = l[k]?

/-! ### Flatness and predicted size -/

/-- `FLAT_DETECT` reports the first flat group of the next supergroup inside the line, its class and position, or 0; a
group start or a QP out of range raises `F_RANGE`, and an original of a candidate group not written, with no flat group
before it, raises `F_UNINIT` with the word of the first such original (43_rate_control.md R336, R337, R340,
60_exceptions.md R442). Which original of a group is the first is the model's reading, log entry 12. -/
def Obligations.FlatDetectRule : Prop :=
  ∀ (s : State) (gs : Nat), s.running → s.encoding → LegalConfig s →
    let qp := s.port.opA.toInt
    let at' (p : Nat) : Nat := flatClassOf s (heldOrig s) qp.toNat (gs + 12 + 3 * p)
    ((gs % 3 ≠ 0 ∨ s.width ≤ gs) → exec (.flatDetect gs) s = .next (s.afterFault .range gs)) ∧
    (gs % 3 = 0 → gs < s.width → (qp < 0 ∨ (maxQp s.bpc : Int) < qp) →
      exec (.flatDetect gs) s = .next (s.afterFault .range qp)) ∧
    (gs % 3 = 0 → gs < s.width → 0 ≤ qp → qp ≤ maxQp s.bpc → ∀ info,
      flatGap s gs qp.toNat [0, 1, 2, 3] = some info →
      exec (.flatDetect gs) s = .next (s.afterFault .uninit info)) ∧
    (gs % 3 = 0 → gs < s.width → 0 ≤ qp → qp ≤ maxQp s.bpc → flatGap s gs qp.toNat [0, 1, 2, 3] = none →
      exec (.flatDetect gs) s =
        .next (s.withResult
          (if at' 0 ≠ 0 then at' 0
            else if at' 1 ≠ 0 then at' 1 + 16
            else if at' 2 ≠ 0 then at' 2 + 32
            else if at' 3 ≠ 0 then at' 3 + 48
            else 0 : Nat))) ∧
    ∀ o, s.origIs o → flatGap s gs qp.toNat [0, 1, 2, 3] = none ∧
      ∀ p, flatClassOf s o qp.toNat (gs + 12 + 3 * p) = at' p

/-- `PSIZE_ADJ`: the predicted size moved by the change of level, held inside 0 to `M - 1` (44_entropy.md R361, R362). -/
def Obligations.PsizeAdjRule : Prop :=
  ∀ (s : State) (c : Cpnt), s.running → s.inSlice → LegalConfig s → s.masterQp ≤ maxQp s.bpc →
    s.size.prevPredQp.toNat ≤ maxQp s.bpc →
    exec (.psizeAdj c) s =
      .next (s.withResult
        (min (max ((s.size.predictedSize.get c).toNat + (levelOf s c s.size.prevPredQp.toNat : Int)
              - levelOf s c s.masterQp) 0)
          ((s.depth c : Int) - levelOf s c s.masterQp - 1)))

/-! ### The bit syntax -/

/-- The unary code (30_encoding.md R150): its bits, its length, and that reading it from the front of a substream gives
the value back and consumes exactly its bits. -/
def Obligations.UnaryRule : Prop :=
  ∀ (s : State) (ss : Cpnt) (v vmax : Nat) (rest : List Bool), v ≤ vmax →
    s.io.source.get ss = unaryBits v vmax ++ rest →
    (v < vmax → unaryBits v vmax = List.replicate v false ++ [true] ∧ (unaryBits v vmax).length = v + 1) ∧
    (v = vmax → unaryBits v vmax = List.replicate v false ∧ (unaryBits v vmax).length = vmax) ∧
    getUnary ss vmax s = .ok v { s with io := { s.io with source := s.io.source.set ss rest } }

/-- The prefix values of a group (30_encoding.md R152, and the reading that the spec infers from it in R153): every
unit's value lies in its alphabet and reads back as the unit's size; the luma value never reads as the escape, and the
escape's value always does. -/
def Obligations.PrefixValuesReadBack : Prop :=
  ∀ (c : Cpnt) (l : Bool) (u : UnitPlan) (n : Nat), u.p < u.m → u.p ≤ n → n ≤ u.m →
    prefixValue c l u n ≤ prefixMax c u ∧ sizeOfPrefix c l u (prefixValue c l u n) = n ∧
    (c = .i0 → isEscape l u (prefixValue c l u n) = false) ∧
    escapeValue l u ≤ prefixMax .i0 u ∧ isEscape l u (escapeValue l u) = true ∧
    prefixMax .i0 u = u.m - u.p + 1 ∧ prefixMax .i1 u = u.m - u.p ∧ prefixMax .i2 u = u.m - u.p

/-- A residual sent in at least its size reads back: the n low bits of its two's complement, most significant first,
sign-extended (30_encoding.md R154, 20_memory.md R104, R106). -/
def Obligations.ResidualReadsBack : Prop :=
  ∀ (s : State) (ss : Cpnt) (e : Int) (n : Nat) (rest : List Bool), residualSize e ≤ n →
    s.io.source.get ss = toBits n (e % 2 ^ n).toNat ++ rest →
    getResidual ss n s = .ok e { s with io := { s.io with source := s.io.source.set ss rest } }

/-! ### Group commands -/

/-- `ENC_GROUP` completes on every ready encoder state with the line's originals written and room in the sink: it leaves
what `GroupDone` says (position, counters, sizes, scratch, cache, block-prediction search and frame), it sends exactly
the group's bits, its record of present flatness fields is that of the originals, a unit is coded as `UnitEncoded` says,
and the group is an ICH group exactly when `IchChosen` says, which forced MPP excludes and in which equal cost goes to the
units; it then codes the picked entries (44_entropy.md R364 to R368, R370, R377, R378; 43_rate_control.md R337; 42_ich.md
R265, R267). That a flatness record that is not valid holds type 0 and position 0 is the model's reading, log entry 16. -/
def Obligations.EncGroupCompletes : Prop :=
  ∀ (s : State) (o : Cpnt → Nat → Sample), GroupReady s → s.st.isEncoder = true → s.origIs o →
    (∀ ss r, s.io.sinkRoom.get ss = some r → 64 ≤ r) →
    ∃ t : State, exec .encGroup s = .next t ∧ GroupDone s t ∧
      (∀ ss, t.io.sink.get ss = s.io.sink.get ss ++ (groupWire s t).get ss) ∧
      (∀ ss, t.io.sinkRoom.get ss = (s.io.sinkRoom.get ss).map (fun r => r - ((groupWire s t).get ss).length)) ∧
      t.io.source = s.io.source ∧ t.io.chunkOut = s.io.chunkOut ∧
      (flatPresent s → t.flat.flatNext = flatRecordOf s o) ∧
      (t.mode.ichSelected = true ↔ IchChosen s o) ∧
      (t.mode.ichSelected = true → s.mode.forceMpp = false ∧ ∀ i : Pix, PickedEntry s o i (t.mode.ichIdx.get i).toNat) ∧
      (t.mode.ichSelected = false → ∀ c, UnitEncoded s t o c)

/-- `DEC_GROUP` completes on every ready decoder state whose source holds enough bits, unless the bits are an ICH group
that names an entry not valid, which is `F_BITSTREAM` (44_entropy.md R375, 42_ich.md R275): it leaves what `GroupDone`
says, it takes exactly the group's bits from the front of the source and sends nothing, and its record of present
flatness fields is the one read (44_entropy.md R377, R378). -/
def Obligations.DecGroupCompletes : Prop :=
  ∀ s : State, GroupReady s → s.st.isEncoder = false → (∀ ss, 64 ≤ (s.io.source.get ss).length) →
    (escapeAhead s → ∀ i : Pix, ichValidAt s (ichIndexAhead s i) = true) →
    ∃ t : State, exec .decGroup s = .next t ∧ GroupDone s t ∧
      (∀ ss, s.io.source.get ss = (groupWire s t).get ss ++ t.io.source.get ss) ∧ t.io.sink = s.io.sink ∧
      t.io.sinkRoom = s.io.sinkRoom ∧ t.io.chunkOut = s.io.chunkOut ∧
      (flatPresent s → t.flat.flatNext = flatRecordAhead s) ∧
      (t.mode.ichSelected = true ↔ escapeAhead s) ∧
      (escapeAhead s → ∀ i : Pix, (t.mode.ichIdx.get i).toNat = ichIndexAhead s i)

/-- The faults of the group commands. `PutBits` and `GetBits` on a full sink or an empty source raise `F_BITIO` with the
substream, and neither send nor take a bit of that call (20_memory.md R109); so a group command whose luma substream is
empty, or takes no bit, ends in `F_BITIO` of substream 0 with the streams as they were. A decoder that reads an ICH index
naming no valid entry, the indices before it being valid, raises `F_BITSTREAM` with that index (42_ich.md R275,
44_entropy.md R375). An encoder raises `F_UNINIT` with the word of the first original not written: of the next supergroup,
with no bit sent and nothing else done, or of the group, after the flatness fields (44_entropy.md R370, 60_exceptions.md
R442). Which original of a candidate group is the first is the model's reading, log entry 12. -/
def Obligations.GroupFaults : Prop :=
  (∀ (s : State) (ss : Cpnt) (n v : Nat),
    (∀ r, s.io.sinkRoom.get ss = some r → r < n → putBits ss n v s = .error (raising .bitio ss.toNat) s) ∧
    ((∀ r, s.io.sinkRoom.get ss = some r → n ≤ r) →
      ∃ t, putBits ss n v s = .ok n t ∧ t.io.sink = s.io.sink.set ss (s.io.sink.get ss ++ toBits n v) ∧
        t = { s with io := { s.io with sink := t.io.sink, sinkRoom := t.io.sinkRoom } }) ∧
    ((s.io.source.get ss).length < n → getBits ss n s = .error (raising .bitio ss.toNat) s) ∧
    ∀ rest, s.io.source.get ss = toBits n v ++ rest → v < 2 ^ n →
      getBits ss n s = .ok v { s with io := { s.io with source := s.io.source.set ss rest } }) ∧
  (∀ s : State, GroupReady s → s.st.isEncoder = false → s.io.source.get .i0 = [] →
    exec .decGroup s =
      .next
        (({ s with
            flat :=
              if s.flat.sgPos = 0 ∧ ¬ flatPresent s then { s.flat with flatNext := ⟨false, false, 0⟩ } else s.flat } :
          State).afterFault .bitio 0)) ∧
  (∀ (s : State) (o : Cpnt → Nat → Sample), GroupReady s → s.st.isEncoder = true → s.origIs o →
    s.io.sinkRoom.get .i0 = some 0 →
    ∃ t, exec .encGroup s = .next t ∧ t.st = (s.afterFault .bitio 0).st ∧ t.io = s.io ∧ t.port = s.port ∧
      t.mode.groupPending = false ∧ t.mode.lineOpen = false ∧ t.pos = s.pos ∧ t.size = s.size ∧ t.ich = s.ich ∧
      t.prev = s.prev ∧ t.orig = s.orig) ∧
  (∀ (s : State) (info : Int), GroupReady s → s.st.isEncoder = true → flatPresent s →
    flatGap s s.hPos s.masterQp [0, 1, 2, 3] = some info →
    exec .encGroup s = .next (s.afterFault .uninit info)) ∧
  (∀ (s : State) (info : Int), GroupReady s → s.st.isEncoder = true →
    (flatPresent s → flatGap s s.hPos s.masterQp [0, 1, 2, 3] = none) →
    (∀ r, s.io.sinkRoom.get .i0 = some r → 4 ≤ r) →
    firstGap (Idx3.all.flatMap (fun c : Cpnt => Idx3.all.map (fun i : Pix => origGap s c ((s.hPos : Int) + i.toNat)))) =
      some info →
    ∃ t, exec .encGroup s = .next t ∧ t.st = (s.afterFault .uninit info).st ∧ t.port = s.port ∧
      t.mode.groupPending = false ∧ t.mode.lineOpen = false ∧ t.pos = s.pos ∧ t.size = s.size ∧ t.ich = s.ich ∧
      t.prev = s.prev ∧ t.orig = s.orig ∧ t.io.source = s.io.source ∧ t.io.chunkOut = s.io.chunkOut ∧
      ∀ ss, t.io.sink.get ss = s.io.sink.get ss ++ if ss = .i0 then flatWire s t else []) ∧
  ∀ (s : State) (i : Pix), GroupReady s → s.st.isEncoder = false → (∀ ss, 64 ≤ (s.io.source.get ss).length) →
    escapeAhead s → (∀ j : Pix, j.toNat < i.toNat → ichValidAt s (ichIndexAhead s j) = true) →
    ichValidAt s (ichIndexAhead s i) = false →
    ∃ t, exec .decGroup s = .next t ∧ t.st = (s.afterFault .bitstream (ichIndexAhead s i)).st ∧
      t.mode.lineOpen = false ∧ t.mode.groupPending = false ∧ t.cur = s.cur ∧ t.prev = s.prev ∧ t.ich = s.ich ∧
      t.port = s.port ∧ t.pos = s.pos ∧ t.size = s.size

/-- A pixel of a normal unit is reconstructed within half a quantization step of its original: the spec's inference
44_entropy.md R381, from 41_quantizer.md R234, R236 and R240. -/
def Obligations.NormalPixelErrorBound : Prop :=
  ∀ (s t : State) (c : Cpnt) (gs q : Nat) (i : Pix) (r0 r1 e x : Int),
    origRead s c (gs + i.toNat) = .ok x → x ≤ s.maxval c →
    normalPixel c gs q i r0 r1 s = .ok e t →
    ∃ v, storeRead (t.cur.get c) (gs + i.toNat) = some v ∧ |x - v.toNat| ≤ 2 ^ q / 2 ∧ v.toNat ≤ s.maxval c

/-- LOCKSTEP, the spec's inference 44_entropy.md R382 from R370 and R375: when the encoder codes a group without a fault,
a decoder in the same state, but for its direction, its originals, its ports and its streams, whose source starts with
the bits the encoder sent, ends in the same state: the same `cur`, sizes, cache, history and position, with exactly the
encoder's bits consumed. -/
def Obligations.DecoderFollowsEncoder : Prop :=
  ∀ (s t : State) (sent : Tri (List Bool)) (rest : Tri (List Bool)) (port : Port) (orig : LineBuf) (io : BitIo),
    (∀ c, storeWf (s.cur.get c)) → s.st.faulted = false → exec .encGroup s = .next t → t.st.faulted = false →
    (∀ ss, t.io.sink.get ss = s.io.sink.get ss ++ sent.get ss) →
    (∀ ss, io.source.get ss = sent.get ss ++ rest.get ss) →
    exec .decGroup { s with st := { s.st with isEncoder := false }, port := port, orig := orig, io := io } =
      .next
        { t with
          st := { t.st with isEncoder := false }
          port := { port with res := t.port.res }
          orig := orig
          io := { io with source := rest } }

/-! ### Rate control -/

/-- `RC_UPDATE` completes on every ready state, in the state that its ten steps give in closed form: bits added and
removed, the chunk closed, the transform, the range, the target, the QP, flatness, and MPP forcing (43_rate_control.md
R305 to R330; the reset of `chunkPixelCount` at a chunk boundary is log entry 7 and the group's start log entry 17). -/
def Obligations.RcUpdateCompletes : Prop := ∀ s : State, UpdateReady s → exec .rcUpdate s = .next (afterUpdate s)

/-- The bounds of step 3 (43_rate_control.md R307), as the step of the update: overflow, underflow in CBR, and in VBR
the absorbed bits. -/
def Obligations.BufferBoundsRule : Prop :=
  ∀ s : State,
    ((s.rcbBits : Int) < s.fullness → rcBounds s = .error (raising .bufOverflow s.fullness) s) ∧
    (0 ≤ s.fullness → s.fullness ≤ s.rcbBits → rcBounds s = .ok () s) ∧
    (s.fullness < 0 → s.cfg .vbrEnable = 0 → rcBounds s = .error (raising .bufUnderflow s.fullness) s) ∧
    (s.fullness < 0 → s.cfg .vbrEnable = 1 → s.buf.clampedBits.toNat + 2 ^ 31 < 2 ^ 32 →
      rcBounds s =
        .ok ()
          { s with
            buf :=
              { s.buf with
                clampedBits := BitVec.ofInt 32 (s.buf.clampedBits.toNat - s.fullness)
                bufferFullness := 0 } })

/-- Over any 16 consecutive pixel-times after the delay exactly `bits_per_pixel` bits are removed, and the fraction
returns to what it was: what 43_rate_control.md R306 infers from its pseudocode (marked derived). -/
def Obligations.SixteenPixelTimesRemoveBpp : Prop :=
  ∀ s : State, s.cfg .initialXmitDelay ≤ s.pos.pixelCount.toNat → s.pos.pixelCount.toNat + 16 < 2 ^ 32 →
    s.buf.chunkPixelCount.toNat + 16 < 2 ^ 32 → -2 ^ 30 ≤ s.fullness →
    ∃ t, times rcPixelTime 16 s = .ok () t ∧ t.fullness = s.fullness - s.cfg .bitsPerPixel ∧
      t.buf.bpgFracAccum = s.buf.bpgFracAccum ∧ t.buf.removalStarted = true ∧
      t.pos.pixelCount.toNat = s.pos.pixelCount.toNat + 16

/-- `RC_UPDATE` ends in the fault of the first of its checks that fails, with the writes of the steps before it kept: a
fullness above the buffer, a negative one in CBR, a VBR chunk of more than 65535 bytes, a model fullness that is not
negative (43_rate_control.md R307, R309, R312, R330; 60_exceptions.md R442, R446). The closed forms before the check are
those of `RcUpdateCompletes`, with log entries 7 and 17. The first two clauses say the same of the single steps. -/
def Obligations.RcUpdateFaults : Prop :=
  ∀ s : State,
    (s.cfg .vbrEnable = 1 → 65535 * 8 < s.buf.numBitsChunk.toInt →
      rcChunkVbr s = .error (raising .bufOverflow ((s.buf.numBitsChunk.toInt + 7) / 8)) s) ∧
    (let m := (s.rc.rcXformScale.toNat * (s.fullness + s.rc.rcXformOffsetFx.toInt / 2048)) / 8
     0 ≤ m → m < 2 ^ 31 →
      rcModel s =
        .error (raising .rcModelOverflow m) { s with rc := { s.rc with rcModelFullness := BitVec.ofInt 32 m } }) ∧
    (UpdateStart s →
      ((s.rcbBits : Int) < updFullness s →
        exec .rcUpdate s = .next ((afterRemoval s).afterFault .bufOverflow (updFullness s))) ∧
      (updFullness s < 0 → s.cfg .vbrEnable = 0 →
        exec .rcUpdate s = .next ((afterRemoval s).afterFault .bufUnderflow (updFullness s))) ∧
      (updFullness s ≤ s.rcbBits → updLast s → updVbr s → 524280 < updChunkBits s →
        exec .rcUpdate s = .next ((afterBounds s).afterFault .bufOverflow (updChunkBytes s)))) ∧
    (UpdateBounded s → 0 ≤ updModel s →
      exec .rcUpdate s = .next ((afterModel s).afterFault .rcModelOverflow (updModel s)))

/-! ### Invariants -/

/-- At reset every invariant holds, every status and configuration register and `res` is 0, and every line-buffer element
is unspecified (70_reset_and_hazards.md R480). That the invariants hold rests on the model's values of registers that R480
leaves unspecified, such as `lineOpen`, `groupPending` and the ICH entries (log entry 1). -/
def Obligations.ResetMeetsInvariants : Prop :=
  StorageInv State.reset ∧ ControlInv State.reset ∧ RateInv State.reset ∧ SampleInv State.reset ∧ IchInv State.reset ∧
    BlockInv State.reset ∧ State.reset.st.word = 0 ∧ State.reset.st.faultInfo = 0 ∧ State.reset.st.faultCmd = 0 ∧
    (∀ a, memRead State.reset.mem a = 0) ∧ State.reset.flatThresh = 0 ∧ State.reset.port.res = 0 ∧
    ∀ c i, storeRead (State.reset.prev.get c) i = none ∧ storeRead (State.reset.cur.get c) i = none ∧
      storeRead (State.reset.orig.get c) i = none

/-- Every step keeps the storage's form (10_state.md R32, R47, R49). -/
def Obligations.StorageFormKept : Prop :=
  ∀ s t : State, StorageInv s → step s = .next t → StorageInv t

/-- Every step keeps the agreement of the status bits, the mode flags, the position and the group counts (10_state.md R36,
R38, R40, R45, R48, 45_sequencing.md R413 to R418, 60_exceptions.md R443; the counts are those of log entry 9). -/
def Obligations.ControlAgreementKept : Prop :=
  ∀ s t : State, ControlInv s → step s = .next t → ControlInv t

/-- Every step keeps the fullness inside the buffer and every QP inside the legal range while a slice is active
(43_rate_control.md R307, R320; 10_state.md R37). -/
def Obligations.RateRangesKept : Prop :=
  ∀ s t : State, ControlInv s → RateInv s → step s = .next t → RateInv t

/-- Every step keeps every stored sample inside its component's range while a slice is active or done (10_state.md R49,
41_quantizer.md R240, 45_sequencing.md R417). -/
def Obligations.SampleRangesKept : Prop :=
  ∀ s t : State, SampleInv s → step s = .next t → SampleInv t

/-- Every step keeps the valid cache slots an initial run of distinct triples: the spec's inference 42_ich.md R274 from
R270 to R273. -/
def Obligations.CacheOrderKept : Prop :=
  ∀ s t : State, IchInv s → step s = .next t → IchInv t

/-- Every step keeps block prediction off unless the configuration enables it, and every stored vector a candidate
(40_prediction.md R181, R191, R200). -/
def Obligations.BlockPredictionKept : Prop :=
  ∀ s t : State, BlockInv s → step s = .next t → BlockInv t
end

