-- ==== Sys2Proof/Tests/Slice0.lean ====
section
/-! SUPPORT. Tests. The expected values are those of 95_test_vectors.md and 30_encoding.md, never the model's own answers.
A theorem `test_witness_...` shows a state and operands that meet the hypotheses of a statement. -/

namespace Sys2Proof.Tests

open Sys2Proof Sys2Proof.Machine

/- One theorem at a time: elaborated side by side, the kernel evaluations below ask for too many threads. -/
set_option Elab.async false

/-! ### Helpers -/

/-- The state a command leaves. -/
def after (i : Instr) (s : State) : State :=
  match exec i s with
  | .next t => t
  | .fault _ => s
  | .refused _ => s

/-- Whether a command answers a next state. -/
def goes (i : Instr) (s : State) : Bool :=
  match exec i s with
  | .next _ => true
  | .fault _ => false
  | .refused _ => false

theorem exec_after {i : Instr} {s : State} (h : goes i s = true) : exec i s = .next (after i s) := by
  unfold goes at h
  unfold after
  cases hx : exec i s with
  | next t => rfl
  | fault f => rw [hx] at h; cases h
  | refused r => rw [hx] at h; cases h

/-- The state with operands on the ports. -/
def withOps (s : State) (a b : Int) : State :=
  { s with port := { s.port with opA := BitVec.ofInt 32 a, opB := BitVec.ofInt 32 b } }

/-- `res` after a command with operands. -/
def resOf (i : Instr) (s : State) (a b : Int) : Int := (after i (withOps s a b)).port.res.toInt

/-- The fault recorded after a command with operands. -/
def faultOf (i : Instr) (s : State) (a b : Int) : Option FaultKind × Nat :=
  let t := after i (withOps s a b)
  (t.st.faultCode, t.st.faultInfo.toNat)

/-- The bytes of configuration K0 that are not 0, as (index, byte), bytes 0 to 57 (95_test_vectors.md section 2). -/
def k0Low : Memory :=
  [(0, 0x11), (3, 0x88), (5, 0x80), (7, 0x01), (9, 0x03), (11, 0x01), (13, 0x03), (15, 0x03), (16, 0x02), (21, 0x08),
    (32, 0x18), (34, 0x10), (35, 0xF0), (36, 0x03), (37, 0x0C), (38, 0x20), (40, 0x06), (41, 0x0B), (42, 0x0B),
    (43, 0x33), (44, 0x0E), (45, 0x1C), (46, 0x2A), (47, 0x38), (48, 0x46), (49, 0x54), (50, 0x62), (51, 0x69),
    (52, 0x70), (53, 0x77), (54, 0x79), (55, 0x7B), (56, 0x7D), (57, 0x7E)]

/-- Bytes 58 to 87 of K0. -/
def k0High : Memory :=
  [(58, 0x01), (59, 0x02), (60, 0x01), (62, 0x09), (63, 0x40), (64, 0x09), (65, 0xBE), (66, 0x19), (67, 0xFC),
    (68, 0x19), (69, 0xFA), (70, 0x19), (71, 0xF8), (72, 0x1A), (73, 0x38), (74, 0x1A), (75, 0x78), (76, 0x1A),
    (77, 0xB6), (78, 0x2A), (79, 0xF6), (80, 0x2B), (81, 0x34), (82, 0x2B), (83, 0x74), (84, 0x3B), (85, 0x74),
    (86, 0x6B), (87, 0xF4)]

/-- The image of K0: 3 pixels by 1 line. -/
def k0 : Memory := k0Low ++ k0High

/-- K0 with lines of 6 pixels (K0/W6). -/
def k0Six : Memory := memWrite (memWrite (memWrite k0 9 6) 13 6) 15 6

/-- K0 with lines of 24 pixels. -/
def k0Long : Memory := memWrite (memWrite (memWrite k0 9 24) 13 24) 15 24

/-- K0 with lines of 6 pixels and 2 lines (K0/W6H2). -/
def k0Wide : Memory :=
  memWrite (memWrite (memWrite (memWrite (memWrite k0 7 2) 9 6) 11 2) 13 6) 15 6

/-- The block with an image checked. -/
def checked (m : Memory) : State :=
  { State.reset with
    mem := m
    flatThresh := 2
    ngChecked := BitVec.ofNat 12 ((cfgOf m .sliceWidth + 2) / 3)
    st := { State.reset.st with cfgValid := true } }

/-- A line of three samples. -/
def line3 (a b c : Sample) : Store Sample := [(0, a), (1, b), (2, c)]

/-- An encoder slice of program P3 before its group: the originals written and the line open. -/
def encOpen : State :=
  after .lineStart
    { after (.sliceStart true) (checked k0) with
      orig := ⟨line3 128 130 129, line3 128 128 128, line3 128 128 128⟩ }

/-- P3 after its group. -/
def encCoded : State := after .encGroup encOpen

/-- P3 after the rate-control update. -/
def encRated : State := after .rcUpdate encCoded

/-- A decoder slice whose source holds P3's bits and more. -/
def decOpen : State :=
  { after .lineStart (after (.sliceStart false) (checked k0)) with
    io :=
      ⟨Tri.fill [], Tri.fill none,
        ⟨[false, false, false, true, false, false, false, false, true, false, true, true, true] ++ List.replicate 51 false,
          true :: List.replicate 63 false, true :: List.replicate 63 false⟩, []⟩ }

/-- Line 1 of a 6-pixel slice, open in the encoder, with the line above and the samples of the first group (the MAP
example of 95_test_vectors.md 3.4), three valid cache entries and a constant original line. -/
def lineTwo : State :=
  let above : Store Sample := [(0, 100), (1, 104), (2, 108), (3, 112), (4, 116), (5, 120)]
  let flat : Store Sample := [(0, 10), (1, 10), (2, 10), (3, 10), (4, 10), (5, 10)]
  { checked k0Wide with
    st := { (checked k0Wide).st with sliceActive := true, isEncoder := true, stateValid := true }
    pos := ⟨1, 3, 1, 3, 9, 0⟩
    flat := ⟨FlatRec.zero, FlatRec.zero, 1, .none⟩
    mode := ⟨false, false, false, Tri.fill 0, false, true⟩
    bp := ⟨[.map, .bp], [3, 3], [.map, .map], [3, 3], Tri.fill BpCost.zero, 0, 0, 0, 2⟩
    rc := { State.reset.rc with rcXformScale := 8, rcModelFullness := 0xFFFFFFFF }
    prev := ⟨above, above, above⟩
    cur := ⟨line3 10 20 110, line3 10 20 110, line3 10 20 110⟩
    orig := ⟨flat, flat, flat⟩
    ich :=
      ⟨true, 12, 22, 32⟩ :: ⟨true, 10, 20, 30⟩ :: ⟨true, 11, 21, 31⟩ :: List.replicate 29 IchEntry.empty }

/-- Program P6 before its second group: QP 1, the group (10,20,30), (11,21,31), (12,22,32) coded and cached. -/
def groupTwo : State :=
  let s := after .lineStart (after (.sliceStart true) (checked k0Six))
  { s with
    pos := { s.pos with hPos := 3, groupInLine := 1, groupCount := 1 }
    flat := { s.flat with sgPos := 1 }
    qp := ⟨1, 0⟩
    size := { s.size with predictedSize := ⟨8, 8, 8⟩ }
    cur := ⟨line3 10 11 12, line3 20 21 22, line3 30 31 32⟩
    orig :=
      ⟨line3 10 11 12 ++ [(3, 10), (4, 12), (5, 10)], line3 20 21 22 ++ [(3, 20), (4, 22), (5, 20)],
        line3 30 31 32 ++ [(3, 30), (4, 32), (5, 30)]⟩
    ich := ⟨true, 12, 22, 32⟩ :: ⟨true, 11, 21, 31⟩ :: ⟨true, 10, 20, 30⟩ :: List.replicate 29 IchEntry.empty }

/-- The same with a second group that is all (12,22,32), after a group at the same QP that left the predicted sizes p. -/
def groupTwoFlat (p : Tri (BitVec 5)) : State :=
  { groupTwo with
    size := { groupTwo.size with predictedSize := p, prevPredQp := 1 }
    orig :=
      ⟨line3 10 11 12 ++ [(3, 12), (4, 12), (5, 12)], line3 20 21 22 ++ [(3, 22), (4, 22), (5, 22)],
        line3 30 31 32 ++ [(3, 32), (4, 32), (5, 32)]⟩ }

/-- K0 and its wide form are legal. -/
theorem legal_k0 (s : State) (h : s.mem = k0) : LegalConfig s := by
  constructor <;> simp only [State.bpc, State.cfg, h] <;> decide +kernel

theorem legal_k0Vbr (s : State) (h : s.mem = memWrite k0 4 4) : LegalConfig s := by
  constructor <;> simp only [State.bpc, State.cfg, h] <;> decide +kernel

theorem legal_k0Six (s : State) (h : s.mem = k0Six) : LegalConfig s := by
  constructor <;> simp only [State.bpc, State.cfg, h] <;> decide +kernel

theorem legal_k0Long (s : State) (h : s.mem = k0Long) : LegalConfig s := by
  constructor <;> simp only [State.bpc, State.cfg, h] <;> decide +kernel

theorem legal_k0Wide (s : State) (h : s.mem = k0Wide) : LegalConfig s := by
  constructor <;> simp only [State.bpc, State.cfg, h] <;> decide +kernel

/-! ### Well-formedness: each check refuses a term it should -/

theorem test_wf_refuses_cfgWr : (Instr.cfgWr 65536).wf = false := by decide
theorem test_wf_refuses_origWr : (Instr.origWr .i0 65536).wf = false := by decide
theorem test_wf_refuses_pixRd : (Instr.pixRd .i0 65536).wf = false := by decide
theorem test_wf_refuses_regRd : (Instr.regRd 65536).wf = false := by decide
theorem test_wf_refuses_pred : (Instr.pred .i0 .map 65536).wf = false := by decide
theorem test_wf_refuses_midpoint : (Instr.midpoint .i0 65536).wf = false := by decide
theorem test_wf_refuses_ichLookup : (Instr.ichLookup .i0 65536).wf = false := by decide
theorem test_wf_refuses_ichTest : (Instr.ichTest 65536).wf = false := by decide
theorem test_wf_refuses_ichPick : (Instr.ichPick 65536).wf = false := by decide
theorem test_wf_refuses_flatDetect : (Instr.flatDetect 65536).wf = false := by decide

/-! ### Decoding: the words of 95_test_vectors.md 3.1, and every constructor -/

theorem test_decode_nop : decode 0x00000000#32 = .ok .nop := by decide
theorem test_decode_cfgWr : decode 0x08000003#32 = .ok (.cfgWr 3) := by decide
theorem test_decode_cfgCheck : decode 0x10000000#32 = .ok .cfgCheck := by decide
theorem test_decode_sliceStart_enc : decode 0x18400000#32 = .ok (.sliceStart true) := by decide
theorem test_decode_sliceStart_dec : decode 0x18000000#32 = .ok (.sliceStart false) := by decide
theorem test_decode_lineStart : decode 0x20000000#32 = .ok .lineStart := by decide
theorem test_decode_lineEnd : decode 0x28000000#32 = .ok .lineEnd := by decide
theorem test_decode_origWr : decode 0x32000005#32 = .ok (.origWr .i1 5) := by decide
theorem test_decode_pixRd : decode 0x38000001#32 = .ok (.pixRd .i0 1) := by decide
theorem test_decode_regRd : decode 0x40000200#32 = .ok (.regRd 0x200) := by decide
theorem test_decode_mapq : decode 0x4A000000#32 = .ok (.mapq .i1) := by decide
theorem test_decode_quant : decode 0x50000000#32 = .ok .quant := by decide
theorem test_decode_dequant : decode 0x58000000#32 = .ok .dequant := by decide
theorem test_decode_rsize : decode 0x60000000#32 = .ok .rsize := by decide
theorem test_decode_recon : decode 0x68000000#32 = .ok (.recon .i0) := by decide
theorem test_decode_pred_map : decode 0x70400003#32 = .ok (.pred .i0 .map 3) := by decide
theorem test_decode_pred_bp : decode 0x70800003#32 = .ok (.pred .i0 .bp 3) := by decide
theorem test_decode_midpoint : decode 0x78000003#32 = .ok (.midpoint .i0 3) := by decide
theorem test_decode_ichLookup : decode 0x80000019#32 = .ok (.ichLookup .i0 25) := by decide
theorem test_decode_ichTest : decode 0x88000003#32 = .ok (.ichTest 3) := by decide
theorem test_decode_ichPick : decode 0x90000002#32 = .ok (.ichPick 2) := by decide
theorem test_decode_flatDetect : decode 0x98000000#32 = .ok (.flatDetect 0) := by decide
theorem test_decode_psizeAdj : decode 0xA2000000#32 = .ok (.psizeAdj .i1) := by decide
theorem test_decode_encGroup : decode 0xA8000000#32 = .ok .encGroup := by decide
theorem test_decode_decGroup : decode 0xB0000000#32 = .ok .decGroup := by decide
theorem test_decode_rcUpdate : decode 0xB8000000#32 = .ok .rcUpdate := by decide
theorem test_decode_refuses_opcode18 : decode 0xC0000000#32 = .error .reservedOpcode := by decide
theorem test_decode_refuses_opcode1F : decode 0xF8000000#32 = .error .reservedOpcode := by decide
theorem test_decode_refuses_reserved : decode 0x00010000#32 = .error .reservedBits := by decide
theorem test_decode_refuses_component3 : decode 0x4E000000#32 = .error .badComponent := by decide
theorem test_decode_refuses_unused : decode 0x08400003#32 = .error .unusedField := by decide
theorem test_decode_refuses_pred_sel3 : decode 0x70C00003#32 = .error .badSelector := by decide
theorem test_decode_refuses_slice_sel2 : decode 0x18800000#32 = .error .badSelector := by decide
theorem test_decodeTableWord : decodeTableWord 32 0x32000005 = some (.origWr .i1 5) := by decide

/-! ### The step and the host's placing of a command -/

theorem test_step_idle : step State.reset = .next State.reset := rfl
theorem test_step_runs_placed :
    (match step (State.reset.withFetchWord 32 0x40000200) with
      | .next t => (t.port.cmd, t.port.res, t.pending.length)
      | _ => (1, 1, 1)) = (0x40000200#32, 0#32, 0) := by decide +kernel
theorem test_step_illegal :
    (match step (State.reset.withFetchWord 32 0xC0000000) with
      | .next t => (t.st.word, t.st.faultInfo, t.st.faultCmd)
      | _ => (0, 0, 0)) = (0x101#32, 0xC0000000#32, 0xC0000000#32) := by decide +kernel

/-! ### Commands (95_test_vectors.md sections 3 and 4) -/

theorem test_nop_keeps_res : resOf .nop encCoded 7 7 = 15 := by decide +kernel
theorem test_cfgWr_clears_reserved : resOf (.regRd 4) (after (.cfgWr 4) (withOps State.reset 0xFF 0)) 0 0 = 0x3F := by
  decide +kernel
theorem test_cfgWr_range : faultOf (.cfgWr 3) State.reset 0x100 0 = (some .range, 0x100) := by decide +kernel
theorem test_cfgCheck_passes : resOf .cfgCheck { State.reset with mem := k0 } 0 0 = 1 := by decide +kernel
theorem test_cfgCheck_names_field :
    faultOf .cfgCheck { State.reset with mem := memWrite k0 3 0x98 } 0 0 = (some .cfgRange, 24) := by decide +kernel
/-- Two fields fail: the earlier check of R413 is recorded. -/
theorem test_cfgCheck_names_first :
    faultOf .cfgCheck { State.reset with mem := memWrite (memWrite k0 8 0) 9 2 } 0 0 = (some .cfgRange, 64) ∧
      faultOf .cfgCheck { State.reset with mem := memWrite (memWrite k0 9 2) 3 0x98 } 0 0 = (some .cfgRange, 24) := by
  decide +kernel
theorem test_sliceStart_status : (after (.sliceStart true) (checked k0)).st.word = 0x2E#32 := by decide +kernel
theorem test_sliceStart_offset :
    (after (.sliceStart true) (checked k0)).rc.rcXformOffsetFx.toInt = -4194304 := by decide +kernel
theorem test_lineStart_needs_slice : (after .lineStart (checked k0)).st.word = 0x603#32 := by decide +kernel
theorem test_lineEnd_p3 :
    (after .lineEnd encRated).st.word = 0x3A#32 ∧ (after .lineEnd encRated).prev.a0 = line3 128 130 129 := by
  decide +kernel
theorem test_lineEnd_early : faultOf .lineEnd encOpen 0 0 = (some .sequence, 0) := by decide +kernel
theorem test_origWr_index : faultOf (.origWr .i0 3) encOpen 1 0 = (some .range, 3) := by decide +kernel
theorem test_origWr_value : faultOf (.origWr .i0 0) encOpen 256 0 = (some .range, 256) := by decide +kernel
theorem test_pixRd_p3 : resOf (.pixRd .i0 1) encCoded 0 0 = 130 := by decide +kernel
theorem test_regRd_before_slice : faultOf (.regRd 0x301) State.reset 0 0 = (some .notActive, 0x301) := by decide +kernel
theorem test_regRd_qp_p3 : resOf (.regRd 0x310) encRated 0 0 = 3 := by decide +kernel
/-- The vectors of a finished slice of two groups stay readable when the image becomes one group wide (R421, R101). -/
theorem test_regRd_history_after_cfgWr :
    (let done : State :=
        { lineTwo with
          st := { lineTwo.st with sliceActive := false, sliceDone := true }
          mode := { lineTwo.mode with lineOpen := false } }
     let s := after (.cfgWr 13) (withOps done 3 0)
     (s.ng, resOf (.regRd 0xA001) s 0 0, faultOf (.regRd 0xA002) s 0 0)) =
      (1, 3, (some .badIndex, 0xA002)) := by decide +kernel
theorem test_mapq : resOf (.mapq .i0) (checked k0) 15 0 = 7 := by decide +kernel
theorem test_mapq_range : faultOf (.mapq .i0) (checked k0) 16 0 = (some .range, 16) := by decide +kernel
theorem test_quant_negative : resOf .quant (checked k0) (-13) 2 = -3 := by decide +kernel
theorem test_quant_dead_zone : resOf .quant (checked k0) (-2) 2 = 0 := by decide +kernel
theorem test_dequant : resOf .dequant (checked k0) (-1) 2 = -4 := by decide +kernel
theorem test_rsize : resOf .rsize (checked k0) (-128) 0 = 8 := by decide +kernel
theorem test_rsize_next : resOf .rsize (checked k0) 128 0 = 9 := by decide +kernel
theorem test_recon : resOf (.recon .i0) (checked k0) 250 12 = 255 := by decide +kernel
theorem test_pred_map :
    resOf (.pred .i0 .map 5) lineTwo 2 0xFFFC0004 = 119 ∧
      faultOf (.pred .i0 .map 0) encOpen 0 0 = (some .uninit, 0x10000000) := by decide +kernel
theorem test_pred_left_pad : resOf (.pred .i0 .left 0) encOpen 0 0 = 128 := by decide +kernel
theorem test_midpoint : resOf (.midpoint .i0 3) { lineTwo with cur := Tri.fill (line3 1 2 77) } 2 0 = 129 := by
  decide +kernel
theorem test_midpoint_start : faultOf (.midpoint .i0 1) lineTwo 2 0 = (some .range, 1) := by decide +kernel
theorem test_ichLookup_slot : resOf (.ichLookup .i1 1) lineTwo 0 0 = 20 := by decide +kernel
theorem test_ichLookup_above : resOf (.ichLookup .i0 31) lineTwo 0 0 = 120 := by decide +kernel
theorem test_ichTest_empty : resOf (.ichTest 0) encOpen 0 0 = 0 := by decide +kernel
theorem test_ichPick :
    resOf (.ichPick 3) { lineTwo with orig := ⟨[(3, 10)], [(3, 20)], [(3, 30)]⟩ } 0 0 = 1 := by decide +kernel
theorem test_flatDetect_beyond_line : resOf (.flatDetect 0) encOpen 4 0 = 0 := by decide +kernel
theorem test_psizeAdj :
    resOf (.psizeAdj .i0)
      { encOpen with
        qp := ⟨8, 0⟩
        size := { encOpen.size with predictedSize := ⟨5, 0, 0⟩, prevPredQp := 4 } } 0 0 = 3 := by decide +kernel
/-- P3; and P6, whose second group is an ICH group with the indices 2, 0, 2, of 17 bits. -/
theorem test_encGroup_p3_p6 :
    (encCoded.port.res = 15#32 ∧ encCoded.io.sink.a0 = (decOpen.io.source.a0).take 13 ∧ encCoded.io.sink.a1 = [true]) ∧
      (let t := after .encGroup groupTwo
       (t.mode.ichSelected, t.mode.ichIdx, t.port.res, t.io.sink.a0)) =
        (true, ⟨2, 0, 2⟩, 17#32,
          [false, false, false, false, false, true, false, false, false, false, false, false, false, false, false, true,
            false]) := by decide +kernel
/-- R367, R368 by hand, no error in either coding. Predicted sizes (0, 0, 0): 3 bits against 9 + 15, so units, though the
ICH test passes. Sizes (0, 3, 4): 24 bits against 24, so units. Sizes (0, 4, 4): 27 against 24, so ICH. -/
theorem test_encGroup_cost :
    (let t := after .encGroup (groupTwoFlat ⟨0, 0, 0⟩); (t.mode.ichSelected, t.port.res)) = (false, 3#32) ∧
      resOf (.ichTest 3) (groupTwoFlat ⟨0, 0, 0⟩) 0 0 = 1 ∧
      (let t := after .encGroup (groupTwoFlat ⟨0, 3, 4⟩); (t.mode.ichSelected, t.port.res)) = (false, 24#32) ∧
      (let t := after .encGroup (groupTwoFlat ⟨0, 4, 4⟩); (t.mode.ichSelected, t.port.res)) = (true, 24#32) := by
  decide +kernel
theorem test_decGroup_p4 :
    (after .decGroup decOpen).port.res = 15#32 ∧ (after .decGroup decOpen).cur.a0 = line3 128 130 129 := by
  decide +kernel
theorem test_decGroup_wrong_direction : (faultOf .decGroup encOpen 0 0).1 = some .illegalCmd := by decide +kernel
theorem test_rcUpdate_p3 :
    encRated.port.res = 3#32 ∧ encRated.rc.rcModelFullness.toInt = -2057 ∧ encRated.buf.numBitsChunk.toInt = -9 ∧
      encRated.rc.rcRange = 6 ∧ encRated.rc.rcXformOffsetFx.toInt = -4243456 := by decide +kernel
theorem test_rcUpdate_twice : faultOf .rcUpdate encRated 0 0 = (some .sequence, 0) := by decide +kernel
theorem test_reduce :
    (reduceSample { State.reset with mem := [(3, 0xCA)] } .i0 4094,
      reduceSample { State.reset with mem := [(3, 0xCA)] } .i0 6) = (4092, 8) := by decide +kernel
theorem test_unary : unaryBits 3 9 = [false, false, false, true] ∧ unaryBits 2 2 = [false, false] := by decide

/-! ### The PPS table (30_encoding.md R140): named fields and reserved rows tile bits 0 to 1023 -/

/-- The fields that are not numbered. -/
def plainFields : List PpsField :=
  [.versionMajor, .versionMinor, .identifier, .bitsPerComponent, .linebufDepth, .blockPredEnable, .convertRgb,
    .enable422, .vbrEnable, .bitsPerPixel, .picHeight, .picWidth, .sliceHeight, .sliceWidth, .chunkSize,
    .initialXmitDelay, .initialDecDelay, .initialScaleValue, .scaleIncrementInterval, .scaleDecrementInterval,
    .firstLineBpgOfs, .nflBpgOffset, .sliceBpgOffset, .initialOffset, .finalOffset, .flatnessMinQp, .flatnessMaxQp,
    .rcModelSize, .rcEdgeFactor, .rcQuantIncrLimit0, .rcQuantIncrLimit1, .rcTgtOffsetHi, .rcTgtOffsetLo]

/-- Every row of the table as (first bit, width). -/
def ppsRows : List (Nat × Nat) :=
  plainFields.map (fun f => (f.first, f.width)) ++ ppsReserved
    ++ (List.range 14).map (fun i => ((PpsField.rcBufThresh i).first, (PpsField.rcBufThresh i).width))
    ++ (List.range 15).flatMap (fun j =>
        [((PpsField.rangeMinQp j).first, (PpsField.rangeMinQp j).width),
          ((PpsField.rangeMaxQp j).first, (PpsField.rangeMaxQp j).width),
          ((PpsField.rangeBpgOffset j).first, (PpsField.rangeBpgOffset j).width)])

/-- The rows have 1024 bits in all and cover every bit, so none is covered twice. -/
theorem test_pps_rows_tile :
    (ppsRows.map Prod.snd).sum = 1024 ∧
      ppsRows.foldl (fun acc r => acc ||| (2 ^ r.2 - 1) * 2 ^ r.1) 0 = 2 ^ 1024 - 1 := by decide +kernel

/-! ### Witnesses: states and operands that meet the hypotheses of each statement -/

theorem test_witness_decodeOfEncode : (Instr.pred .i2 .bp 65535).wf = true ∧ (Instr.cfgWr 0).wf = true := by decide

theorem test_witness_encodeOfDecode : decode 0x3C00FFFF#32 = .ok (.pixRd .i2 65535) := by decide

theorem test_witness_stepRunsPresentedCommand :
    State.reset.pending = [] ∧ (State.reset.withFetchWord 32 0x10000000).pending = [⟨0x10000000, 0, 0⟩] ∧
      decode 0x10000000#32 = .ok .cfgCheck ∧ decode 0xC0000000#32 = .error .reservedOpcode ∧ State.reset.running := by
  decide +kernel

/-- A halted block. -/
def halted : State := after .lineStart (checked k0)

/-- A malformed word in the halted block, with an opcode that it discards and with one that it runs. -/
theorem test_witness_stepRunsPresentedCommand_halted :
    halted.st.faulted = true ∧ (halted.withFetchWord 32 0xC0000000).pending = [⟨0xC0000000, 0, 0⟩] ∧
      decode 0xC0000000#32 = .error .reservedOpcode ∧
      (halted.withFetchWord 32 0x08400003).pending = [⟨0x08400003, 0, 0⟩] ∧
      decode 0x08400003#32 = .error .unusedField := by decide +kernel

theorem test_witness_haltedBlockKeepsFault :
    halted.st.faulted = true ∧ (∃ t, exec .encGroup halted = .next t) ∧ runsHalted .encGroup = false ∧
      (∀ d, Instr.encGroup ≠ .sliceStart d) ∧ ∃ t, exec .cfgCheck halted = .next t := by
  refine ⟨by decide +kernel, ⟨_, rfl⟩, by decide, fun d => by simp, ?_⟩
  exact ⟨after .cfgCheck halted, exec_after (by decide +kernel)⟩

theorem test_witness_acceptanceTable :
    State.reset.running ∧ (State.reset.mode.groupPending = true → State.reset.st.sliceActive = true) ∧
      tableFault .lineStart State.reset = some (.notActive, 0) ∧
      tableFault .quant State.reset = some (.notActive, 0) ∧
      tableFault .encGroup State.reset = some (.illegalCmd, 0) ∧
      tableFault (.sliceStart true) State.reset = some (.sequence, 0) ∧ encOpen.running ∧
      (encOpen.mode.groupPending = true → encOpen.st.sliceActive = true) ∧
      tableFault (.cfgWr 5) encOpen = some (.cfgLocked, 5) := by decide +kernel

theorem test_witness_statusFieldWriters :
    exec (.sliceStart true) (checked k0) = .next (after (.sliceStart true) (checked k0)) ∧
      (after (.sliceStart true) (checked k0)).st.isEncoder ≠ (checked k0).st.isEncoder ∧
      (checked k0).st.stateValid = false ∧ (after (.sliceStart true) (checked k0)).st.stateValid = true ∧
      exec .lineEnd encRated = .next (after .lineEnd encRated) ∧ encRated.st.sliceDone = false ∧
      (after .lineEnd encRated).st.sliceDone = true ∧
      exec .cfgCheck { State.reset with mem := k0 } = .next (after .cfgCheck { State.reset with mem := k0 }) ∧
      (after .cfgCheck { State.reset with mem := k0 }).st.cfgValid = true :=
  ⟨exec_after (by decide +kernel), by decide +kernel, by decide +kernel, by decide +kernel,
    exec_after (by decide +kernel), by decide +kernel, by decide +kernel, exec_after (by decide +kernel),
    by decide +kernel⟩

theorem test_witness_statusFieldWriters_falls :
    (let done := after .lineEnd encRated
     done.st.sliceDone = true ∧ done.st.cfgValid = true ∧ done.running ∧
       goes (.cfgWr 4) done = true ∧ (after (.cfgWr 4) done).st.cfgValid = false ∧
       (after (.cfgWr 4) done).st.sliceDone = false ∧ (after (.cfgWr 4) done).st.faulted = false) ∧
      (let s : State := { checked k0 with mem := [] }
       goes .cfgCheck s = true ∧ s.st.cfgValid = true ∧ (after .cfgCheck s).st.cfgValid = false) ∧
      encOpen.running ∧ encOpen.st.sliceActive = true ∧ goes .lineStart encOpen = true ∧
      (after .lineStart encOpen).st.faulted = true ∧ (after .lineStart encOpen).st.sliceActive = false ∧
      (after (.sliceStart true) halted).st.faultCode = none := by decide +kernel

theorem test_witness_memoryWriters :
    Memory.wf State.reset.mem ∧
      exec (.cfgWr 0) (withOps State.reset 0x11 0) = .next (after (.cfgWr 0) (withOps State.reset 0x11 0)) ∧
      memRead (after (.cfgWr 0) (withOps State.reset 0x11 0)).mem 0 ≠ memRead State.reset.mem 0 ∧
      Memory.wf encOpen.mem ∧ exec .encGroup encOpen = .next encCoded ∧ encCoded.cur ≠ encOpen.cur ∧
      exec .lineEnd encRated = .next (after .lineEnd encRated) ∧ (after .lineEnd encRated).prev ≠ encRated.prev ∧
      (after .lineEnd encRated).orig ≠ encRated.orig :=
  ⟨by decide +kernel, exec_after (by decide +kernel), by decide +kernel, by decide +kernel,
    exec_after (by decide +kernel), by decide +kernel, exec_after (by decide +kernel), by decide +kernel,
    by decide +kernel⟩

theorem test_witness_observersWriteOnlyResult :
    rowOf .quant = .quantizer ∧ exec .quant (checked k0) = .next (after .quant (checked k0)) ∧
      rowOf (.pixRd .i0 0) = .reader ∧ exec (.pixRd .i0 0) encCoded = .next (after (.pixRd .i0 0) encCoded) :=
  ⟨rfl, exec_after (by decide +kernel), rfl, exec_after (by decide +kernel)⟩

theorem test_witness_cfgWrRule :
    Memory.wf encOpen.mem ∧ encOpen.st.sliceActive = true ∧ Memory.wf State.reset.mem ∧
      State.reset.st.sliceActive = false ∧ (withOps State.reset 255 0).port.opA.toInt = 255 ∧
      (withOps State.reset 256 0).port.opA.toInt = 256 ∧ (withOps State.reset (-1) 0).port.opA.toInt = -1 ∧
      (withOps State.reset 65535 0).port.opA.toInt = 65535 := by decide +kernel

theorem test_witness_cfgCheckPassesLegal :
    (checked k0).st.sliceActive = false ∧ LegalConfig (checked k0) := ⟨rfl, legal_k0 _ rfl⟩

theorem test_witness_cfgCheckRefusesIllegal : State.reset.st.sliceActive = false ∧ ¬ LegalConfig State.reset :=
  ⟨rfl, fun h => by have := h.versionMajor; revert this; decide +kernel⟩

/-- A configuration whose first failing check is the last one. -/
theorem test_witness_cfgCheckRefusesIllegal_last :
    (let s : State := { State.reset with mem := memWrite k0 86 0x3A }
     s.st.sliceActive = false ∧ (fieldChecks s ++ tableChecks s).dropLast.all (fun c => c.ok) = true ∧
       ((fieldChecks s ++ tableChecks s).getLast?.map FieldCheck.ok) = some false) := by decide +kernel

theorem test_witness_sliceStartRule :
    (checked k0).st.sliceActive = false ∧ (checked k0).st.cfgValid = true ∧ State.reset.st.sliceActive = false ∧
      State.reset.st.cfgValid = false := by decide

/-- An encoder slice of K0/W6H2 as a slice of a wider picture, on its second line, with the line closed. -/
def narrowSlice : State :=
  { lineTwo with mem := memWrite k0Wide 9 12, mode := { lineTwo.mode with lineOpen := false } }

theorem test_witness_lineStartOpensLine :
    narrowSlice.running ∧ narrowSlice.st.sliceActive = true ∧ narrowSlice.mode.lineOpen = false ∧
      narrowSlice.ich.length = 32 ∧ 1 ≤ narrowSlice.vPos ∧
      narrowSlice.cfg .sliceWidth < narrowSlice.cfg .picWidth ∧
      (let s := after (.sliceStart true) (checked k0)
       s.running ∧ s.st.sliceActive = true ∧ s.mode.lineOpen = false ∧ s.ich.length = 32 ∧ s.vPos = 0) := by
  decide +kernel

/-- The samples of P3. -/
def p3Samples (c : Cpnt) (i : Nat) : Sample :=
  match c, i with
  | .i0, 1 => 130
  | .i0, 2 => 129
  | _, _ => 128

theorem test_witness_lineEndClosesLine :
    encRated.running ∧ encRated.st.sliceActive = true ∧ encRated.mode.lineOpen = true ∧
      encRated.mode.groupPending = false ∧ encRated.width ≤ encRated.hPos ∧ encRated.vPos < encRated.height ∧
      ∀ c ∈ Idx3.all, ∀ i < encRated.width, storeRead (encRated.cur.get c) i = some (p3Samples c i) := by
  decide +kernel

/-- A history longer than the slice: its last element is outside NG. -/
theorem test_witness_lineEndClosesLine_beyond :
    (let s : State := { encRated with bp := { encRated.bp with ptypeCur := [.left, .bp], bpVecCur := [3, 7] } }
     s.ng ≤ 1 ∧ s.bp.ptypeCur.getD 1 .left = .bp ∧ (after .lineEnd s).bp.bpVecCur.getD 1 0 = 7) := by decide +kernel

theorem test_witness_outOfOrderFaults :
    encOpen.running ∧ encOpen.st.sliceActive = true ∧ encOpen.hPos < encOpen.width ∧ encOpen.mode.lineOpen = true ∧
      encOpen.mode.groupPending = false ∧ encCoded.running ∧ encCoded.st.sliceActive = true ∧
      encCoded.mode.groupPending = true ∧ encCoded.st.isEncoder = true ∧ decOpen.st.isEncoder = false ∧
      decOpen.running ∧ decOpen.st.sliceActive = true ∧
      (let s := after (.sliceStart false) (checked k0)
       s.running ∧ s.st.sliceActive = true ∧ s.mode.lineOpen = false ∧ s.st.isEncoder = false) := by decide +kernel

theorem test_witness_reduceRule :
    255 ≤ (checked k0).maxval .i0 ∧ (checked k0).depth .i0 - (checked k0).lbd .i0 = 0 ∧
      (let s : State := { State.reset with mem := [(3, 0xCA)] }
       4095 ≤ s.maxval .i0 ∧ 0 < s.depth .i0 - s.lbd .i0) := by decide +kernel

theorem test_witness_origWrRule :
    encOpen.running ∧ encOpen.encoding ∧ encOpen.width ≤ 3 ∧ 2 < encOpen.width ∧
      (withOps encOpen 256 0).port.opA.toInt = 256 ∧ encOpen.maxval .i0 = 255 := by decide +kernel

theorem test_witness_pixRdRule :
    encCoded.running ∧ encCoded.inSlice ∧ encCoded.width + 2 ≤ 5 ∧ 4 < encCoded.width + 2 ∧
      storeRead (encCoded.cur.get .i0) 2 = some 129 ∧ storeRead (encCoded.cur.get .i0) 4 = none := by decide +kernel

/-- How many of the three kinds an index below 0x8000 is of: configuration, codec state, unmapped. -/
def indexKinds (idx : Nat) : Nat :=
  (decide (idx ≤ 0x007F ∨ idx = 0x0100 ∨ 0x0200 ≤ idx ∧ idx ≤ 0x0202)).toNat
    + (codecRanges.countP (fun r => decide (r.1 ≤ idx ∧ idx ≤ r.2)))
    + unmappedRanges.countP (fun r => decide (r.1 ≤ idx ∧ idx ≤ r.2))

/-- At both ends of every run, and one beyond each, an index is of exactly one kind. -/
theorem test_index_kinds :
    (codecRanges ++ unmappedRanges).all (fun r =>
      [r.1 - 1, r.1, r.2, r.2 + 1].all (fun idx => decide (0x8000 ≤ idx) || indexKinds idx == 1)) = true := by
  decide +kernel

theorem test_witness_regRdStatusAndConfig :
    unmappedRanges.all (fun r => decide (r.1 ≤ r.2)) = true ∧ (0x0307, 0x030F) ∈ unmappedRanges ∧
      (0x03B9, 0x0FFF) ∈ unmappedRanges ∧ (0x1080, 0x7FFF) ∈ unmappedRanges ∧
      max encOpen.ngChecked.toNat encOpen.bp.ngSlice.toNat = 1 ∧
      max State.reset.ngChecked.toNat State.reset.bp.ngSlice.toNat = 0 ∧
      (let s : State := { encOpen with ngChecked := 0xFFF }
       max s.ngChecked.toNat s.bp.ngSlice.toNat < 0x2000) := by decide +kernel

theorem test_witness_regRdCodecState :
    encOpen.st.stateValid = true ∧ max encOpen.ngChecked.toNat encOpen.bp.ngSlice.toNat = 1 ∧
      State.reset.st.stateValid = false ∧ codecRanges.all (fun r => decide (r.1 ≤ r.2)) = true ∧
      (checked k0).st.stateValid = false ∧ max (checked k0).ngChecked.toNat (checked k0).bp.ngSlice.toNat = 1 ∧
      (let s : State := { lineTwo with ngChecked := 5 }
       s.st.stateValid = true ∧ max s.ngChecked.toNat s.bp.ngSlice.toNat = 5) ∧
      (let s : State := { lineTwo with ngChecked := 1 }
       s.st.stateValid = true ∧ max s.ngChecked.toNat s.bp.ngSlice.toNat = 2) := by decide +kernel

theorem test_witness_lineBufferPadding :
    1 ≤ lineTwo.width ∧ 1 ≤ lineTwo.vPos ∧ 1 ≤ encOpen.width ∧ encOpen.vPos = 0 ∧
      curRead encOpen .i0 0 = .error (uninitAt .cur 0 0) := by
  refine ⟨by decide +kernel, by decide +kernel, by decide +kernel, by decide +kernel, ?_⟩
  exact readCell_none (sp := .cur) (b := encOpen.cur) (c := .i0) (i := 0) (by decide +kernel)

theorem test_witness_mapqRule :
    (checked k0).running ∧ (checked k0).st.cfgValid = true ∧ (checked k0).bpc = 8 ∧
      (withOps (checked k0) 15 0).port.opA.toInt ≤ maxQp (checked k0).bpc ∧
      (maxQp (checked k0).bpc : Int) < (withOps (checked k0) 16 0).port.opA.toInt := by decide +kernel

theorem test_witness_quantRule :
    (checked k0).running ∧ (checked k0).st.cfgValid = true ∧ (withOps (checked k0) 1 0).port.opB.toInt = 0 ∧
      (withOps (checked k0) 1 12).port.opB.toInt = 12 ∧ 0 < (withOps (checked k0) 1 12).port.opA.toInt ∧
      (withOps (checked k0) 0 1).port.opA.toInt ≤ 0 ∧ 12 < (withOps (checked k0) 0 13).port.opB.toInt ∧
      (withOps (checked k0) 0 (-1)).port.opB.toInt < 0 := by decide +kernel

theorem test_witness_quantizeProperties :
    (1 : Nat) ≤ 1 ∧ (-2 ^ (1 - 1) : Int) ≤ -1 ∧ (0 : Int) ≤ 250 + 5 ∧ (250 + 5 : Int) ≤ (checked k0).maxval .i0 := by
  decide +kernel

theorem test_witness_dequantRule :
    (checked k0).running ∧ (checked k0).st.cfgValid = true ∧
      (let s := withOps (checked k0) (-524288) 12
       s.port.opB.toInt = 12 ∧ -2 ^ 31 ≤ s.port.opA.toInt * 2 ^ s.port.opB.toInt.toNat) ∧
      (let s := withOps (checked k0) 524288 12
       2 ^ 31 ≤ s.port.opA.toInt * 2 ^ s.port.opB.toInt.toNat) := by decide +kernel

theorem test_witness_rsizeIsLeastWidth :
    (checked k0).running ∧ (checked k0).st.cfgValid = true ∧ (withOps (checked k0) 0 0).port.opA.toInt = 0 ∧
      (withOps (checked k0) (-1) 0).port.opA.toInt = -1 := by decide +kernel

theorem test_witness_reconClamps :
    (checked k0).running ∧ (checked k0).st.cfgValid = true ∧ (checked k0).maxval .i0 = 255 ∧
      (withOps (checked k0) (-1) 0).port.opA.toInt + (withOps (checked k0) (-1) 0).port.opB.toInt = -1 ∧
      (withOps (checked k0) 255 1).port.opA.toInt + (withOps (checked k0) 255 1).port.opB.toInt = 256 := by
  decide +kernel

theorem test_witness_predRule :
    lineTwo.running ∧ lineTwo.inSlice ∧ lineTwo.width + 1 < 8 ∧ 7 ≤ lineTwo.width + 1 ∧
      curRead lineTwo .i0 2 = .ok 110 ∧ curRead lineTwo .i0 (-7) = .ok 100 ∧ prevRead lineTwo .i0 1 = .ok 104 ∧
      prevRead lineTwo .i0 2 = .ok 108 ∧ prevRead lineTwo .i0 3 = .ok 112 ∧ prevRead lineTwo .i0 4 = .ok 116 ∧
      prevRead lineTwo .i0 5 = .ok 120 ∧ prevRead lineTwo .i0 6 = .ok 120 ∧ lineTwo.depth .i0 = 8 ∧
      (withOps lineTwo 10 0).port.opA.toInt = 10 ∧ (withOps lineTwo 2 0).port.opA.toInt = 2 := by
  refine ⟨?_, ?_, ?_, ?_, rfl, rfl, rfl, rfl, rfl, rfl, rfl, rfl, ?_, ?_, ?_⟩ <;> decide +kernel

/-- Reads of elements not written, by class: the sample left of pixel 1 of an empty line, the line above line 0, and a
hole in the line above that MAP reads after its left sample. -/
theorem test_witness_predRule_uninit :
    encOpen.running ∧ encOpen.inSlice ∧ 1 ≤ encOpen.width + 1 ∧ curGap encOpen .i1 (1 - 1) = some 0x21000000 ∧
      (let s := withOps { lineTwo with prev := ⟨[(0, 100), (2, 108)], lineTwo.prev.a1, lineTwo.prev.a2⟩ } 10 0
       s.port.opA.toInt = 10 ∧ curGap s .i0 (2 - 10) = none ∧
         curGap { s with prev := LineBuf.empty } .i0 (2 - 10) = some 0x10000000) ∧
      (let s := { lineTwo with prev := ⟨[(0, 100), (2, 108)], lineTwo.prev.a1, lineTwo.prev.a2⟩ }
       firstGap (curGap s .i0 (3 - 1) :: [-2, -1, 0, 1, 2, 3].map (fun j => prevGap s .i0 (3 + j))) =
         some 0x10000001) ∧
      firstGap (curGap encOpen .i0 (0 - 1) :: [-2, -1, 0, 1, 2, 3].map (fun j => prevGap encOpen .i0 (0 + j))) =
        some 0x10000000 := by decide +kernel

theorem test_witness_mapPredictionInRange : mapPred encOpen .i0 0 .i0 0 0 0 = .error (uninitAt .prev 0 0) ∧
    mapPred { lineTwo with prev := Tri.fill [(0, 100), (1, 100), (2, 100), (3, 100), (4, 100), (5, 100)] } .i0 3 .i0 2 0 0 =
      .ok 110 := by
  constructor <;> rfl

theorem test_witness_midpointRule :
    lineTwo.running ∧ lineTwo.inSlice ∧ lineTwo.width = 6 ∧ 3 % 3 = 0 ∧ 3 < lineTwo.width ∧ lineTwo.depth .i0 = 8 ∧
      curRead lineTwo .i0 2 = .ok 110 := by
  refine ⟨?_, ?_, ?_, ?_, ?_, ?_, rfl⟩ <;> decide +kernel

theorem test_witness_midpointRule_uninit :
    (let s := { lineTwo with cur := LineBuf.empty }
     s.running ∧ s.inSlice ∧ curGap s .i2 (3 - 1) = some 0x22000002) := by decide +kernel

/-- `lineTwo` with a hole in the line above, in component 1 at element 3, and one in the originals, in component 2 at
element 4. -/
def holedLine : State :=
  { lineTwo with
    prev := { lineTwo.prev with a1 := [(0, 100), (1, 104), (2, 108), (4, 116), (5, 120)] }
    orig := { lineTwo.orig with a2 := [(0, 10), (1, 10), (2, 10), (3, 10), (5, 10)] } }

/-- Entry 28 of the group at 3 is element 3 of the line above, so pixel 3 meets the hole in the line first; with the line
above whole, pixel 4 meets the hole in the originals. -/
theorem test_witness_ichRules_uninit :
    holedLine.running ∧ holedLine.inSlice ∧ holedLine.encoding ∧ 1 ≤ holedLine.vPos ∧ holedLine.width = 6 ∧
      entryGap holedLine 28 .i1 3 = some 0x11000003 ∧
      firstGap ([0, 1, 2].flatMap (fun i : Nat => pixelGaps holedLine (3 + i : Nat) 3)) = some 0x11000003 ∧
      firstGap (pixelGaps holedLine 5 ((5 - 5 % 3 : Nat) : Int)) = some 0x11000003 ∧
      (let s := { holedLine with prev := lineTwo.prev }
       firstGap ([0, 1, 2].flatMap (fun i : Nat => pixelGaps s (3 + i : Nat) 3)) = some 0x32000004 ∧
         firstGap (pixelGaps s 4 ((4 - 4 % 3 : Nat) : Int)) = some 0x32000004 ∧
         firstGap (pixelGaps s 5 ((5 - 5 % 3 : Nat) : Int)) = none) := by decide +kernel

theorem test_witness_ichLookupRule :
    lineTwo.running ∧ lineTwo.inSlice ∧ lineTwo.width = 6 ∧ (ichEntry lineTwo 2).valid = true ∧
      (ichEntry lineTwo 24).valid = false ∧ 1 ≤ lineTwo.vPos ∧ storeRead (lineTwo.prev.get .i0) 5 = some 120 ∧
      edgeIndex lineTwo.width (max 3 (min (3 + 1) ((lineTwo.width : Int) - 4)) + (31 - 25) - 3) = 5 := by decide +kernel

/-- The values of the entries of `lineTwo` at its second group. -/
def lineTwoValue (k : Nat) (c : Cpnt) : Int :=
  match k, c with
  | 0, c => (Tri.mk (12 : Int) 22 32).get c
  | 1, c => (Tri.mk (10 : Int) 20 30).get c
  | 2, c => (Tri.mk (11 : Int) 21 31).get c
  | 25, _ => 100
  | 26, _ => 104
  | 27, _ => 108
  | 28, _ => 112
  | 29, _ => 116
  | _, _ => 120

theorem lineTwo_values : ∀ k < 32, ichValidAt lineTwo k = true → ∀ c ∈ Idx3.all,
    (match historyLookup lineTwo k c 3 with
      | .ok v => v == lineTwoValue k c
      | .error _ => false) = true := by decide +kernel

theorem test_witness_ichTestRule :
    lineTwo.running ∧ lineTwo.encoding ∧ LegalConfig lineTwo ∧ lineTwo.masterQp ≤ maxQp lineTwo.bpc ∧ 3 % 3 = 0 ∧
      3 < lineTwo.width ∧ (∀ c i, i < 3 → origRead lineTwo c (3 + i : Nat) = .ok 10) ∧
      ∀ k < 32, ichValidAt lineTwo k = true → ∀ c, historyLookup lineTwo k c 3 = .ok (lineTwoValue k c) := by
  refine ⟨by decide +kernel, by decide +kernel, legal_k0Wide _ rfl, by decide +kernel, by decide, by decide +kernel,
    fun c i hi => ?_, fun k hk hv c => ?_⟩
  · have : i = 0 ∨ i = 1 ∨ i = 2 := by omega
    rcases this with rfl | rfl | rfl <;> cases c <;> rfl
  · have h := lineTwo_values k hk hv c (Idx3.mem_all c)
    revert h
    cases historyLookup lineTwo k c 3 with
    | ok v => simp
    | error r => simp

theorem test_witness_ichPickRule :
    lineTwo.running ∧ lineTwo.encoding ∧ 3 < lineTwo.width + 2 ∧ lineTwo.width + 2 ≤ 8 ∧
      (∀ c, origRead lineTwo c (3 : Nat) = .ok 10) ∧ ichValidAt lineTwo 0 = true ∧ encOpen.running ∧ encOpen.encoding ∧
      ∀ k < 32, ichValidAt encOpen k = false := by
  refine ⟨by decide +kernel, by decide +kernel, by decide +kernel, by decide +kernel, fun c => by cases c <;> rfl,
    by decide +kernel, by decide +kernel, by decide +kernel, by decide +kernel⟩

theorem test_witness_ichUpdateRule : 1 ≤ 25 ∧ 25 ≤ lineTwo.ich.length := by decide +kernel

theorem origIs_lineTwo : lineTwo.origIs (fun _ _ => 10) := by
  have h : ∀ c ∈ Idx3.all, ∀ i < lineTwo.width, storeRead (lineTwo.orig.get c) i = some 10 := by decide +kernel
  exact fun c i hi => h c (Idx3.mem_all c) i hi

theorem test_witness_flatDetectRule :
    lineTwo.running ∧ lineTwo.encoding ∧ LegalConfig lineTwo ∧ lineTwo.origIs (fun _ _ => 10) ∧ 3 < lineTwo.width ∧
      (withOps lineTwo 15 0).port.opA.toInt ≤ maxQp lineTwo.bpc ∧
      (maxQp lineTwo.bpc : Int) < (withOps lineTwo 16 0).port.opA.toInt :=
  ⟨by decide +kernel, by decide +kernel, legal_k0Wide _ rfl, origIs_lineTwo, by decide +kernel, by decide +kernel,
    by decide +kernel⟩

/-- The first group of a line of 24 pixels at QP 4, whose originals are written up to pixel n - 1, constant. -/
def longOpen (n : Nat) : State :=
  let s := after .lineStart (after (.sliceStart true) (checked k0Long))
  { s with qp := ⟨4, 0⟩, orig := Tri.fill ((List.range n).map (fun i => (i, 7))) }

theorem mem_longOpen (n : Nat) : (longOpen n).mem = k0Long := rfl

/-- The first candidate is samples 11 to 14: with 14 pixels written the last is missing; with 15 it is very flat, and
nothing after it is read; with the range broken at 13 the second candidate, 14 to 17, is read too. -/
theorem test_witness_flatDetectRule_uninit :
    LegalConfig (longOpen 14) ∧ (longOpen 14).running ∧ (longOpen 14).encoding ∧
      flatGap (longOpen 14) 0 4 [0, 1, 2, 3] = some 0x3000000E ∧ flatGap (longOpen 15) 0 4 [0, 1, 2, 3] = none ∧
      (let s := longOpen 15
       flatGap { s with orig := s.orig.set .i1 (storeWrite s.orig.a1 13 200) } 0 4 [0, 1, 2, 3] = some 0x3000000F) :=
  ⟨legal_k0Long _ (mem_longOpen 14), by decide +kernel, by decide +kernel, by decide +kernel, by decide +kernel,
    by decide +kernel⟩

theorem test_witness_psizeAdjRule :
    lineTwo.running ∧ lineTwo.inSlice ∧ LegalConfig lineTwo ∧ lineTwo.masterQp ≤ maxQp lineTwo.bpc ∧
      lineTwo.size.prevPredQp.toNat ≤ maxQp lineTwo.bpc :=
  ⟨by decide +kernel, by decide +kernel, legal_k0Wide _ rfl, by decide +kernel, by decide +kernel⟩

theorem test_witness_unaryRule :
    3 ≤ 9 ∧ decOpen.io.source.get .i0 = unaryBits 3 9 ++ (decOpen.io.source.get .i0).drop 4 ∧ 2 ≤ 2 ∧
      (let s : State := { decOpen with io := { decOpen.io with source := Tri.fill [false, false, true] } }
       s.io.source.get .i0 = unaryBits 2 2 ++ [true]) := by decide +kernel

theorem test_witness_prefixValuesReadBack :
    (⟨0, 8, 3⟩ : UnitPlan).p < (⟨0, 8, 3⟩ : UnitPlan).m ∧ (⟨0, 8, 3⟩ : UnitPlan).p ≤ 3 ∧ 8 ≤ (⟨0, 8, 3⟩ : UnitPlan).m := by
  decide

theorem test_witness_residualReadsBack :
    residualSize (-4) ≤ 3 ∧
      (let s : State := { decOpen with io := { decOpen.io with source := Tri.fill [true, false, false, true] } }
       s.io.source.get .i1 = toBits 3 (((-4 : Int) % 2 ^ 3).toNat) ++ [true]) := by decide +kernel

theorem mem_encOpen : encOpen.mem = k0 := rfl

theorem groupReady_encOpen : GroupReady encOpen where
  runs := by decide +kernel
  active := by decide +kernel
  lineOpen := by decide +kernel
  noneLeft := by decide +kernel
  inLine := by decide +kernel
  legal := legal_k0 _ mem_encOpen
  masterQp := by decide +kernel
  predQp := by decide +kernel
  above := fun h => absurd h (by decide +kernel)
  left := fun c i hi => absurd hi (by have : encOpen.hPos = 0 := (by decide +kernel); omega)
  vector := by decide +kernel
  groups := by decide +kernel
  lineGroups := by decide +kernel
  bits := by decide +kernel

theorem origIs_encOpen : encOpen.origIs p3Samples := by
  have h : ∀ c ∈ Idx3.all, ∀ i < encOpen.width, storeRead (encOpen.orig.get c) i = some (p3Samples c i) := by
    decide +kernel
  exact fun c i hi => h c (Idx3.mem_all c) i hi

theorem test_witness_encGroupCompletes :
    GroupReady encOpen ∧ encOpen.st.isEncoder = true ∧ encOpen.origIs p3Samples ∧
      ∀ ss r, encOpen.io.sinkRoom.get ss = some r → 64 ≤ r := by
  refine ⟨groupReady_encOpen, by decide +kernel, origIs_encOpen, fun ss r h => ?_⟩
  have hn : ∀ c ∈ Idx3.all, encOpen.io.sinkRoom.get c = none := by decide +kernel
  rw [hn ss (Idx3.mem_all ss)] at h
  simp at h

/-- The other side of the ICH decision: a ready state with valid entries (its choice is in `test_encGroup_p3_p6`). -/
theorem test_witness_encGroupCompletes_ich :
    groupTwo.st.isEncoder = true ∧ groupTwo.mode.forceMpp = false ∧ groupTwo.hPos < groupTwo.width ∧
      (∀ k < 3, ichValidAt groupTwo k = true) ∧ LegalConfig groupTwo :=
  ⟨by decide +kernel, by decide +kernel, by decide +kernel, by decide +kernel, legal_k0Six _ rfl⟩

/-- A second-line group that is block predicted, with every sample it reads written. -/
theorem groupReady_lineTwo : GroupReady lineTwo where
  runs := by decide +kernel
  active := by decide +kernel
  lineOpen := by decide +kernel
  noneLeft := by decide +kernel
  inLine := by decide +kernel
  legal := legal_k0Wide _ rfl
  masterQp := by decide +kernel
  predQp := by decide +kernel
  above := fun _ => by
    have h : ∀ c ∈ Idx3.all, ∀ i < lineTwo.width, (storeRead (lineTwo.prev.get c) i).isSome = true := by decide +kernel
    exact fun c i hi => h c (Idx3.mem_all c) i hi
  left := by
    have h : ∀ c ∈ Idx3.all, ∀ i < lineTwo.hPos, (storeRead (lineTwo.cur.get c) i).isSome = true := by decide +kernel
    exact fun c i hi => h c (Idx3.mem_all c) i hi
  vector := by decide +kernel
  groups := by decide +kernel
  lineGroups := by decide +kernel
  bits := by decide +kernel

theorem groupReady_decOpen : GroupReady decOpen where
  runs := by decide +kernel
  active := by decide +kernel
  lineOpen := by decide +kernel
  noneLeft := by decide +kernel
  inLine := by decide +kernel
  legal := legal_k0 _ rfl
  masterQp := by decide +kernel
  predQp := by decide +kernel
  above := fun h => absurd h (by decide +kernel)
  left := fun c i hi => absurd hi (by have : decOpen.hPos = 0 := (by decide +kernel); omega)
  vector := by decide +kernel
  groups := by decide +kernel
  lineGroups := by decide +kernel
  bits := by decide +kernel

theorem source_decOpen (ss : Cpnt) : 64 ≤ (decOpen.io.source.get ss).length := by
  have h : ∀ c ∈ Idx3.all, 64 ≤ (decOpen.io.source.get c).length := by decide +kernel
  exact h ss (Idx3.mem_all ss)

theorem not_escape_decOpen : ¬ escapeAhead decOpen := by
  unfold escapeAhead
  decide +kernel

theorem test_witness_decGroupCompletes :
    GroupReady decOpen ∧ decOpen.st.isEncoder = false ∧ (∀ ss, 64 ≤ (decOpen.io.source.get ss).length) ∧
      (escapeAhead decOpen → ∀ i : Pix, ichValidAt decOpen (ichIndexAhead decOpen i) = true) :=
  ⟨groupReady_decOpen, by decide +kernel, source_decOpen, fun h => absurd h not_escape_decOpen⟩

/-- The decoder of P4 with nine zeros first, which is the escape, and then index 0. -/
def decEscape : State := { decOpen with io := { decOpen.io with source := Tri.fill (List.replicate 64 false) } }

theorem groupReady_decEscape : GroupReady decEscape :=
  { groupReady_decOpen with legal := legal_k0 _ rfl }

/-- A full luma sink, and a source without luma bits. -/
def encFull : State := { encOpen with io := { encOpen.io with sinkRoom := ⟨some 0, none, none⟩ } }

def decEmpty : State := { decOpen with io := { decOpen.io with source := ⟨[], [true], [true]⟩ } }

theorem groupReady_encFull : GroupReady encFull := { groupReady_encOpen with legal := legal_k0 _ mem_encOpen }

theorem groupReady_decEmpty : GroupReady decEmpty := { groupReady_decOpen with legal := legal_k0 _ rfl }

/-- The clauses on `PutBits` and `GetBits`, at the edge of the room and of the bits held. -/
theorem test_witness_groupFaults_bits :
    (let s : State := { encOpen with io := { encOpen.io with sinkRoom := Tri.fill (some 2) } }
     s.io.sinkRoom.get .i1 = some 2 ∧ 2 < 3 ∧ 2 ≤ 2) ∧
      (let s : State := { decOpen with io := { decOpen.io with source := Tri.fill [true, false, true] } }
       (s.io.source.get .i2).length < 4 ∧ s.io.source.get .i2 = toBits 3 5 ++ [] ∧ 5 < 2 ^ 3) := by decide +kernel

theorem test_witness_groupFaults :
    GroupReady decEmpty ∧ decEmpty.st.isEncoder = false ∧ decEmpty.io.source.get .i0 = [] ∧ GroupReady encFull ∧
      encFull.st.isEncoder = true ∧ encFull.origIs p3Samples ∧ encFull.io.sinkRoom.get .i0 = some 0 :=
  ⟨groupReady_decEmpty, by decide +kernel, rfl, groupReady_encFull, by decide +kernel, origIs_encOpen, rfl⟩

theorem groupReady_longOpen : GroupReady (longOpen 14) where
  runs := by decide +kernel
  active := by decide +kernel
  lineOpen := by decide +kernel
  noneLeft := by decide +kernel
  inLine := by decide +kernel
  legal := legal_k0Long _ (mem_longOpen 14)
  masterQp := by decide +kernel
  predQp := by decide +kernel
  above := fun h => absurd h (by decide +kernel)
  left := fun c i hi => absurd hi (by have : (longOpen 14).hPos = 0 := (by decide +kernel); omega)
  vector := by decide +kernel
  groups := by decide +kernel
  lineGroups := by decide +kernel
  bits := by decide +kernel

/-- `encOpen` without the second original of component 0. -/
def encHole : State := { encOpen with orig := { encOpen.orig with a0 := [(0, 128), (2, 129)] } }

/-- The two clauses on originals not written: of the next supergroup, and of the group. -/
theorem test_witness_groupFaults_uninit :
    GroupReady (longOpen 14) ∧ (longOpen 14).st.isEncoder = true ∧ flatPresent (longOpen 14) ∧
      flatGap (longOpen 14) (longOpen 14).hPos (longOpen 14).masterQp [0, 1, 2, 3] = some 0x3000000E ∧
      GroupReady encHole ∧ encHole.st.isEncoder = true ∧ ¬ flatPresent encHole ∧ encHole.io.sinkRoom.get .i0 = none ∧
      firstGap (Idx3.all.flatMap (fun c : Cpnt =>
        Idx3.all.map (fun i : Pix => origGap encHole c ((encHole.hPos : Int) + i.toNat)))) = some 0x30000001 :=
  ⟨groupReady_longOpen, by decide +kernel, by decide +kernel, by decide +kernel,
    { groupReady_encOpen with legal := legal_k0 _ mem_encOpen }, by decide +kernel, by decide +kernel, by decide +kernel,
    by decide +kernel⟩

theorem test_encGroup_missing_original : faultOf .encGroup encHole 0 0 = (some .uninit, 0x30000001) := by decide +kernel

/-- `decEscape` with entry 0 valid and the indices k1 and k2 for its second and third pixel. -/
def decIndices (k1 k2 : Nat) : State :=
  { decEscape with
    ich := ⟨true, 1, 2, 3⟩ :: List.replicate 31 IchEntry.empty
    io :=
      { decEscape.io with
        source :=
          Tri.fill (List.replicate 14 false ++ toBits 5 k1 ++ toBits 5 k2 ++ List.replicate 40 false) } }

theorem groupReady_decIndices (k1 k2 : Nat) : GroupReady (decIndices k1 k2) :=
  { groupReady_decOpen with legal := legal_k0 _ rfl }

theorem test_witness_groupFaults_index :
    GroupReady decEscape ∧ decEscape.st.isEncoder = false ∧ (∀ ss, 64 ≤ (decEscape.io.source.get ss).length) ∧
      escapeAhead decEscape ∧ ichValidAt decEscape (ichIndexAhead decEscape .i0) = false := by
  have h : ∀ c ∈ Idx3.all, 64 ≤ (decEscape.io.source.get c).length := by decide +kernel
  refine ⟨groupReady_decEscape, by decide +kernel, fun ss => h ss (Idx3.mem_all ss), ?_, by decide +kernel⟩
  unfold escapeAhead
  decide +kernel

/-- The first index valid and the second not; the first two valid and the third not. -/
theorem test_witness_groupFaults_laterIndex :
    (let s := decIndices 1 0
     GroupReady s ∧ escapeAhead s ∧ (∀ ss ∈ Idx3.all, 64 ≤ (s.io.source.get ss).length) ∧
       ichValidAt s (ichIndexAhead s .i0) = true ∧ ichIndexAhead s .i1 = 1 ∧
       ichValidAt s (ichIndexAhead s .i1) = false) ∧
      (let s := decIndices 0 24
       GroupReady s ∧ escapeAhead s ∧ (∀ ss ∈ Idx3.all, 64 ≤ (s.io.source.get ss).length) ∧
         ichValidAt s (ichIndexAhead s .i0) = true ∧ ichValidAt s (ichIndexAhead s .i1) = true ∧
         ichIndexAhead s .i2 = 24 ∧ ichValidAt s (ichIndexAhead s .i2) = false) := by
  refine ⟨⟨groupReady_decIndices 1 0, ?_, ?_⟩, groupReady_decIndices 0 24, ?_, ?_⟩ <;> (try unfold escapeAhead) <;>
    decide +kernel

/-- The same with a valid cache entry 0: an ICH group that completes. -/
theorem test_witness_decGroupCompletes_escape :
    (let s : State := { decEscape with ich := ⟨true, 1, 2, 3⟩ :: List.replicate 31 IchEntry.empty }
     escapeAhead s ∧ ∀ i ∈ Idx3.all, ichValidAt s (ichIndexAhead s i) = true) := by
  unfold escapeAhead
  decide +kernel

theorem test_witness_normalPixelErrorBound :
    (match origRead encOpen .i0 1 with
      | .ok x => decide (x ≤ encOpen.maxval .i0)
      | .error _ => false) = true ∧
      (match normalPixel .i0 0 0 .i0 0 0 encOpen with
        | .ok e _ => e == 0
        | .error _ _ => false) = true := by decide +kernel

theorem test_witness_decoderFollowsEncoder :
    (∀ c ∈ Idx3.all, storeWf (encOpen.cur.get c)) ∧ encOpen.st.faulted = false ∧ exec .encGroup encOpen = .next encCoded ∧
      encCoded.st.faulted = false ∧
      (∀ ss ∈ Idx3.all, encCoded.io.sink.get ss = encOpen.io.sink.get ss ++ encCoded.io.sink.get ss) ∧
      ∀ ss ∈ Idx3.all,
        decOpen.io.source.get ss =
          encCoded.io.sink.get ss ++ (decOpen.io.source.get ss).drop (encCoded.io.sink.get ss).length := by
  exact ⟨by decide +kernel, by decide +kernel, exec_after (by decide +kernel), by decide +kernel, by decide +kernel,
    by decide +kernel⟩

theorem test_witness_rcUpdateCompletes : UpdateReady encCoded where
  runs := by decide +kernel
  active := by decide +kernel
  pending := by decide +kernel
  legal := legal_k0 _ (by decide +kernel)
  position := by decide +kernel
  fullness := by decide +kernel
  chunk := by decide +kernel
  offset := by decide +kernel
  pixels := by decide +kernel
  chunkPixels := by decide +kernel
  clamped := by decide +kernel
  chunks := by decide +kernel
  fits := by decide +kernel
  held := by decide +kernel
  bytes := by decide +kernel
  model := by decide +kernel

theorem test_witness_bufferBoundsRule :
    (let s := encCoded
     0 ≤ s.fullness ∧ s.fullness ≤ s.rcbBits ∧ s.cfg .vbrEnable = 0) ∧
      (let s : State := { encCoded with buf := { encCoded.buf with bufferFullness := 8193 } }
       (s.rcbBits : Int) < s.fullness) ∧
      (let s : State := { encCoded with buf := { encCoded.buf with bufferFullness := 0xFFFFFFFF } }
       s.fullness < 0) ∧
      (let s : State :=
        { encCoded with mem := memWrite k0 4 4, buf := { encCoded.buf with bufferFullness := 0x80000000 } }
       s.fullness < 0 ∧ s.cfg .vbrEnable = 1 ∧ s.buf.clampedBits.toNat + 2 ^ 31 < 2 ^ 32) := by decide +kernel

theorem test_witness_sixteenPixelTimesRemoveBpp :
    (let s : State := { encCoded with pos := { encCoded.pos with pixelCount := 512 } }
     s.cfg .initialXmitDelay ≤ s.pos.pixelCount.toNat ∧ s.pos.pixelCount.toNat + 16 < 2 ^ 32 ∧
       s.buf.chunkPixelCount.toNat + 16 < 2 ^ 32 ∧ -2 ^ 30 ≤ s.fullness) := by decide +kernel

/-- The two clauses on single steps. -/
theorem test_witness_rcUpdateFaults_steps :
    (let s : State :=
      { encCoded with mem := memWrite k0 4 4, buf := { encCoded.buf with numBitsChunk := 524281 } }
     s.cfg .vbrEnable = 1 ∧ 65535 * 8 < s.buf.numBitsChunk.toInt) ∧
      (let s : State := { encCoded with rc := { encCoded.rc with rcXformOffsetFx := 0 } }
       let m := (s.rc.rcXformScale.toNat * (s.fullness + s.rc.rcXformOffsetFx.toInt / 2048)) / 8
       0 ≤ m ∧ m < 2 ^ 31) := by decide +kernel

/-- A start of an update from its decidable conditions. -/
theorem updateStart_of {s : State} (legal : LegalConfig s)
    (h : (s.running ∧ s.st.sliceActive = true ∧ s.mode.groupPending = true ∧ 3 ≤ s.hPos ∧ 0 ≤ s.fullness ∧
        s.fullness ≤ s.rcbBits) ∧
      (-2 ^ 30 ≤ s.buf.numBitsChunk.toInt ∧ s.buf.numBitsChunk.toInt ≤ 2 ^ 30 ∧
        -2 ^ 30 ≤ s.rc.rcXformOffsetFx.toInt ∧ s.rc.rcXformOffsetFx.toInt ≤ 2 ^ 30) ∧
      s.pos.pixelCount.toNat + 3 < 2 ^ 32 ∧ s.buf.chunkPixelCount.toNat + 3 < 2 ^ 32 ∧
      s.buf.clampedBits.toNat + 2 ^ 20 < 2 ^ 32 ∧ s.buf.chunkIndex.toNat + 1 < 2 ^ 32) : UpdateStart s where
  runs := h.1.1
  active := h.1.2.1
  pending := h.1.2.2.1
  legal := legal
  position := h.1.2.2.2.1
  fullness := h.1.2.2.2.2
  chunk := ⟨h.2.1.1, h.2.1.2.1⟩
  offset := h.2.1.2.2
  pixels := h.2.2.1
  chunkPixels := h.2.2.2.1
  clamped := h.2.2.2.2.1
  chunks := h.2.2.2.2.2

/-- The group of P3 with the buffer full; with an empty buffer and bits to remove; with a long VBR chunk; with an offset
that makes the model positive. -/
def rcOver : State := { encCoded with buf := { encCoded.buf with bufferFullness := 8192 } }

def rcUnder : State :=
  { encCoded with
    pos := { encCoded.pos with pixelCount := 512 }
    size := { encCoded.size with codedGroupSize := 0 } }

def rcLongChunk : State :=
  { encCoded with mem := memWrite k0 4 4, buf := { encCoded.buf with numBitsChunk := 524281 } }

def rcHighModel : State := { encCoded with rc := { encCoded.rc with rcXformOffsetFx := 0x100000 } }

theorem test_witness_rcUpdateFaults :
    UpdateStart rcOver ∧ (rcOver.rcbBits : Int) < updFullness rcOver ∧ UpdateStart rcUnder ∧
      updFullness rcUnder < 0 ∧ rcUnder.cfg .vbrEnable = 0 ∧ UpdateStart rcLongChunk ∧
      updFullness rcLongChunk ≤ rcLongChunk.rcbBits ∧ updLast rcLongChunk ∧ updVbr rcLongChunk ∧
      524280 < updChunkBits rcLongChunk ∧ UpdateBounded rcHighModel ∧ 0 ≤ updModel rcHighModel := by
  refine ⟨updateStart_of (legal_k0 _ (by decide +kernel)) (by decide +kernel), by decide +kernel,
    updateStart_of (legal_k0 _ (by decide +kernel)) (by decide +kernel), by decide +kernel, by decide +kernel,
    updateStart_of (legal_k0Vbr _ rfl) (by decide +kernel), by decide +kernel, by decide +kernel, by decide +kernel,
    by decide +kernel, ?_, by decide +kernel⟩
  exact
    { updateStart_of (legal_k0 _ (by decide +kernel)) (by decide +kernel) with
      fits := by decide +kernel
      held := by decide +kernel
      bytes := by decide +kernel }

/-- `lineTwo` with block prediction enabled and `ENC_GROUP` presented: an active slice in the middle of a line that meets
every invariant. -/
def midSlice : State := { lineTwo with mem := memWrite k0Wide 4 0x20, pending := [⟨0xA8000000, 0, 0⟩] }

theorem legal_midSlice (s : State) (h : s.mem = memWrite k0Wide 4 0x20) : LegalConfig s := by
  constructor <;> simp only [State.bpc, State.cfg, h] <;> decide +kernel

/-- A check of every listed element is a check of every element read. -/
theorem sample_le {m : Store Sample} {n : Nat} (h : ∀ p ∈ m, p.2.toNat ≤ n) (i : Nat) (v : Sample)
    (hv : storeRead m i = some v) : v.toNat ≤ n := h (i, v) (mem_of_storeRead hv)

theorem reserved_bits_zero (m : Memory) (h : ∀ k < 1024, ppsBitReserved k = true → ppsBit m k = false) (k : Nat)
    (hk : ppsBitReserved k = true) : ppsBit m k = false := by
  refine h k ?_ hk
  simp only [ppsBitReserved, ppsReserved, List.any_cons, List.any_nil, Bool.or_false, Bool.or_eq_true,
    Bool.and_eq_true, decide_eq_true_eq] at hk
  omega

theorem test_witness_storageFormKept : StorageInv midSlice where
  image := by decide +kernel
  imageBound := by decide +kernel
  reserved := reserved_bits_zero _ (by decide +kernel)
  prev := fun c => by cases c <;> decide +kernel
  cur := fun c => by cases c <;> decide +kernel
  orig := fun c => by cases c <;> decide +kernel
  ich := by decide +kernel
  window := fun k => by cases k <;> decide +kernel

theorem test_witness_controlAgreementKept : ControlInv midSlice where
  validLegal := fun _ => legal_midSlice _ rfl
  activeValid := by decide +kernel
  activeState := by decide +kernel
  activeRuns := by decide +kernel
  activeNotDone := by decide +kernel
  doneValid := by decide +kernel
  doneState := by decide +kernel
  doneAtEnd := by decide +kernel
  lineActive := by decide +kernel
  pendingLine := by decide +kernel
  faultRecorded := by decide +kernel
  lineInside := by decide +kernel
  groupAligned := by decide +kernel
  lineBound := by decide +kernel
  supergroup := by decide +kernel
  checkedGroups := by decide +kernel
  sliceGroups := by decide +kernel

theorem test_witness_rateRangesKept : midSlice.st.sliceActive = true ∧ RateInv midSlice :=
  ⟨by decide +kernel, fun _ =>
    { fullness := by decide +kernel
      masterQp := by decide +kernel
      prevQp := by decide +kernel
      predQp := by decide +kernel
      scale := by decide +kernel
      model := by decide +kernel
      range := by decide +kernel }⟩

theorem test_witness_sampleRangesKept : midSlice.inSlice ∧ SampleInv midSlice :=
  ⟨by decide +kernel, fun _ =>
    { prev := fun c => by cases c <;> exact sample_le (by decide +kernel)
      cur := fun c => by cases c <;> exact sample_le (by decide +kernel)
      orig := fun c => by cases c <;> exact sample_le (by decide +kernel)
      ich := fun k c hk => by
        have h : ∀ e ∈ IchEntry.empty :: midSlice.ich, ∀ d ∈ Idx3.all, (e.v.get d).toNat ≤ midSlice.maxval d := by
          decide +kernel
        refine h _ ?_ c (Idx3.mem_all c)
        unfold ichEntry
        rw [List.getD_eq_getElem?_getD]
        cases hx : midSlice.ich[k]? with
        | none => simp
        | some e => exact List.mem_cons_of_mem _ (List.mem_of_getElem? hx) }⟩

theorem test_witness_cacheOrderKept : IchInv midSlice where
  size := by decide +kernel
  run := fun j k hj hk => by
    have h : ∀ k < ichSlots midSlice, ∀ j < k, (ichEntry midSlice k).valid = true → (ichEntry midSlice j).valid = true := by
      decide +kernel
    exact h k hk j hj
  distinct := fun j k hj hk => by
    have h : ∀ k < ichSlots midSlice, ∀ j < k, (ichEntry midSlice k).valid = true →
        (ichEntry midSlice j).v ≠ (ichEntry midSlice k).v := by decide +kernel
    exact h k hk j hj

theorem test_witness_blockPredictionKept : midSlice.st.sliceActive = true ∧ BlockInv midSlice :=
  ⟨by decide +kernel, fun _ =>
    { curClass := by decide +kernel
      nextClass := by decide +kernel
      curVector := by decide +kernel
      nextVector := by decide +kernel }⟩

/-- The step from the state of the six witnesses: one coded group. -/
theorem test_witness_invariantsKept :
    step midSlice = .next (after .encGroup (midSlice.present ⟨0xA8000000, 0, 0⟩ [])) ∧
      (after .encGroup (midSlice.present ⟨0xA8000000, 0, 0⟩ [])).pos.hPos = 6 := by
  refine ⟨?_, by decide +kernel⟩
  have h : step midSlice = exec .encGroup (midSlice.present ⟨0xA8000000, 0, 0⟩ []) := rfl
  rw [h]
  exact exec_after (by decide +kernel)

end Sys2Proof.Tests
end

namespace Sys2Proof.Machine

/-! ## How a piece ends

`Ends m s Q E` is the weakest precondition of a piece: `Q` of its answer and state, or `E` of its raise and state. One rule
per operation; a command is taken apart with these and never unfolded into its state changes. -/

section Ends

variable {α β : Type}

/-- A piece run on `s` answers with `Q`, or raises with `E`. -/
structure Ends (m : Act α) (s : State) (Q : α → State → Prop) (E : Raise → State → Prop) : Prop where
  answers : ∀ a t, m s = .ok a t → Q a t
  raises : ∀ r t, m s = .error r t → E r t

variable {m : Act α} {s t : State} {Q : α → State → Prop} {E : Raise → State → Prop}

theorem ends_ok {a : α} (h : m s = .ok a t) (hq : Q a t) : Ends m s Q E where
  answers b u hu := by rw [h] at hu; cases hu; exact hq
  raises r u hu := by rw [h] at hu; cases hu

theorem ends_error {r : Raise} (h : m s = .error r t) (he : E r t) : Ends m s Q E where
  answers b u hu := by rw [h] at hu; cases hu
  raises r' u hu := by rw [h] at hu; cases hu; exact he

theorem Ends.mono {Q' : α → State → Prop} (h : Ends m s Q E) (hq : ∀ a t, Q a t → Q' a t) : Ends m s Q' E where
  answers a t ht := hq a t (h.answers a t ht)
  raises := h.raises

theorem ends_bind {f : α → Act β} {Q : β → State → Prop} (h : Ends m s (fun a t => Ends (f a) t Q E) E) :
    Ends (m >>= f) s Q E := by
  cases hm : m s with
  | ok a t =>
    obtain ⟨hq, he⟩ := h.answers a t hm
    have hb : (m >>= f) s = f a t := act_bind_ok hm
    exact ⟨fun b u hu => hq b u (hb ▸ hu), fun r u hu => he r u (hb ▸ hu)⟩
  | error r t => exact ends_error (act_bind_error hm) (h.raises r t hm)

theorem ends_look {f : State → α} (h : Q (f s) s) : Ends (look f) s Q E := ends_ok (act_look f s) h

theorem ends_update {f : State → State} {Q : Unit → State → Prop} (h : Q () (f s)) : Ends (update f) s Q E :=
  ends_ok (act_update f s) h

theorem ends_demand {p : State → Bool} {k : FaultKind} {info : State → Int} {Q : Unit → State → Prop}
    (hq : p s = true → Q () s) (he : ∀ r, E r s) : Ends (demand p k info) s Q E := by
  cases hp : p s with
  | true => exact ends_ok (act_demand_pos hp) (hq hp)
  | false => exact ends_error (act_demand_neg hp) (he _)

theorem ends_sense {f : State → Rd α} (hq : ∀ a, f s = .ok a → Q a s) (he : ∀ r, E r s) : Ends (sense f) s Q E := by
  cases hf : f s with
  | ok a => exact ends_ok (act_sense_ok hf) (hq a hf)
  | error r => exact ends_error (act_sense_error hf) (he r)

/-- A value that fits its unsigned register is the register's value. -/
theorem ends_fitU {w reg : Nat} {x : Int} {Q : BitVec w → State → Prop}
    (hq : ∀ v : BitVec w, (v.toNat : Int) = x → Q v s) (he : ∀ r, E r s) : Ends (fitU w reg x) s Q E := by
  by_cases hx : 0 ≤ x ∧ x < 2 ^ w
  · refine ends_ok (by rw [act_fitU, if_pos hx]) (hq _ ?_)
    rw [BitVec.toNat_ofInt, Int.toNat_of_nonneg (Int.emod_nonneg _ (by positivity))]
    exact Int.emod_eq_of_lt hx.1 (by exact_mod_cast hx.2)
  · exact ends_error (by rw [act_fitU, if_neg hx]) (he _)

/-- A piece that keeps a property of the state ends in a state that has it. -/
theorem ends_of_keeps {P : State → Prop} (hm : Keeps P m) (hs : P s) (hq : ∀ a t, P t → Q a t)
    (he : ∀ r t, P t → E r t) : Ends m s Q E where
  answers a t h := hq a t (leaves_ok h ▸ hm s hs)
  raises r t h := he r t (leaves_error h ▸ hm s hs)

/-- A command's next state: what its text answers, or fault entry on what its text leaves. -/
theorem complete_ends {m : Act Unit} {R : State → Prop} (h : Ends m s (fun _ u => R u) fun r u => R (u.enterFault r))
    (ht : complete m s = .next t) : R t := by
  rcases complete_cases m s with ⟨u, hu, hc⟩ | ⟨r, u, hu, hc⟩
  · exact Host.Outcome.next.inj (hc ▸ ht) ▸ h.answers () u hu
  · exact Host.Outcome.next.inj (hc ▸ ht) ▸ h.raises r u hu

theorem unlessFaulted_ends {m : Act Unit} {R : State → Prop} (hs : R s)
    (h : Ends m s (fun _ u => R u) fun r u => R (u.enterFault r)) (ht : unlessFaulted m s = .next t) : R t := by
  cases hf : s.st.faulted with
  | true => rw [unlessFaulted_faulted hf] at ht; cases ht; exact hs
  | false => rw [unlessFaulted_running hf] at ht; exact complete_ends h ht

/-- A read that is followed by a piece: the piece may use what the read answered of this state. -/
theorem keeps_sense_bind {P : State → Prop} {f : State → Rd α} {m : α → Act β}
    (h : ∀ s a, P s → f s = .ok a → P (leaves (m a) s)) : Keeps P (sense f >>= m) := by
  intro s hs
  cases hf : f s with
  | ok a =>
    have hb : leaves (sense f >>= m) s = leaves (m a) s := by simp only [leaves, act_bind_ok (act_sense_ok hf)]
    exact hb ▸ h s a hs hf
  | error r => exact (leaves_error (act_bind_error (f := m) (act_sense_error hf))).symm ▸ hs

end Ends

/-! ## A legal configuration is one that passes every check -/

/-- A list of tests passes when each of them does. -/
abbrev allPass (ts : List CfgTest) : Bool := ts.all fun t => t.ok

/-- The tests of one range, but for the first range without its neighbour (45_sequencing.md R413 point 13). -/
theorem cfgTestsRange_allPass (s : State) (j : Nat) :
    allPass (cfgTestsRange s j) = true ↔
      s.cfg (.rangeMaxQp j) ≤ maxQp s.bpc ∧ s.cfg (.rangeMinQp j) ≤ s.cfg (.rangeMaxQp j) ∧
        (j ≠ 0 → s.cfg (.rangeMinQp (j - 1)) ≤ s.cfg (.rangeMinQp j) ∧
          s.cfg (.rangeMaxQp (j - 1)) ≤ s.cfg (.rangeMaxQp j)) := by
  by_cases hj : j = 0 <;> simp [allPass, cfgTestsRange, rangeTest, orderTest, pairTest, hj]

theorem cfgTests3_allPass (s : State) :
    allPass (cfgTests3 s) = true ↔
      (∀ i < 13, s.cfg (.rcBufThresh i) < s.cfg (.rcBufThresh (i + 1))) ∧
        s.cfg (.rcBufThresh 13) * 64 < s.cfg .rcModelSize := by
  simp [allPass, cfgTests3, orderTest, pairTest]

/-- The tests of `CFG_CHECK` pass exactly on a legal configuration (10_state.md R33, 45_sequencing.md R413). -/
theorem cfgLegal_iff (s : State) : cfgLegal s = true ↔ LegalConfig s := by
  have hsplit : cfgLegal s = true ↔
      allPass (cfgTests1 s) = true ∧ allPass (cfgTests2 s) = true ∧ allPass (cfgTests3 s) = true ∧
        ∀ j < 15, allPass (cfgTestsRange s j) = true := by
    simp [cfgLegal, cfgTests, allPass]
  rw [hsplit]
  simp only [cfgTests3_allPass, cfgTestsRange_allPass]
  simp only [allPass, cfgTests1, cfgTests2, rangeTest, orderTest, List.all_cons, List.all_nil, Bool.and_true,
    Bool.and_eq_true, Bool.or_eq_true, beq_iff_eq, decide_eq_true_eq, or_assoc]
  constructor
  · rintro ⟨⟨major, minor, bpc, depth, e422, bpp⟩,
      ⟨sh, sw, ph, pw, chunk, scale, model, initial, final, fmin, fmax⟩, ⟨rise, last⟩, range⟩
    have hnext : ∀ j < 14, s.cfg (.rangeMinQp j) ≤ s.cfg (.rangeMinQp (j + 1)) ∧
        s.cfg (.rangeMaxQp j) ≤ s.cfg (.rangeMaxQp (j + 1)) := fun j hj =>
      (range (j + 1) (by omega)).2.2 (by omega)
    exact ⟨major, minor, bpc, depth, e422, bpp, sh, sw, ph, pw, chunk, scale, model, initial, final, fmin, fmax, rise,
      last, fun j hj => (range j hj).1, fun j hj => (range j hj).2.1, fun j hj => (hnext j hj).1,
      fun j hj => (hnext j hj).2⟩
  · intro h
    refine ⟨⟨h.versionMajor, h.versionMinor, h.bitsPerComponent, h.linebufDepth, h.enable422, h.bitsPerPixel⟩,
      ⟨h.sliceHeight, h.sliceWidth, h.picHeight, h.picWidth, h.chunkSize, h.initialScale, h.rcModelSize, h.initialOffset,
        h.finalOffset, h.flatnessMinQp, h.flatnessMaxQp⟩, ⟨h.thresholdsRise, h.lastThreshold⟩, fun j hj =>
      ⟨h.rangeMaxLegal j hj, h.rangeOrdered j hj, fun h0 => ?_⟩⟩
    obtain ⟨k, rfl⟩ := Nat.exists_eq_succ_of_ne_zero h0
    exact ⟨h.rangeMinRises k (by omega), h.rangeMaxRises k (by omega)⟩

/-- `CFG_CHECK` finds no failing test exactly on a legal configuration. -/
theorem firstFailing_eq_none_iff (s : State) : firstFailing (cfgTests s) = none ↔ LegalConfig s := by
  rw [← cfgLegal_iff, cfgLegal, firstFailing, List.find?_eq_none, List.all_eq_true]
  simp

/-- A configuration is legal by its image alone. -/
theorem LegalConfig.of_mem {s t : State} (h : LegalConfig s) (hm : t.mem = s.mem) : LegalConfig t := by
  cases s; cases t
  cases hm
  exact { h with }

end Sys2Proof.Machine

namespace Sys2Proof.Machine

/-! ## What a command can do

`GroupWrite`, `RateWrite` and `ReducedLine` name the single writes of the long commands; `Effect` says once what any
command can make of a state. Every statement of this family is a case split over `Effect`. -/

/-- One write of a group command before its position bookkeeping (44_entropy.md R370, R375, R377). -/
inductive GroupWrite : State → State → Prop
  | streams (s : State) (io : BitIo) : GroupWrite s (s.withIo io)
  | pixel (s : State) (c : Cpnt) (i : Nat) (p deq : Int) : GroupWrite s (s.setCur c i (reconSample s c p deq))
  | scratch (s : State) (c : Cpnt) (i : Pix) (p e : Int) : GroupWrite s (s.setScratch c i p e)
  | ichPixel {s : State} {k : Nat} {c : Cpnt} {gs v : Int} (i : Nat) (lookup : historyLookup s k c gs = .ok v) :
      GroupWrite s (s.setCur c i v)
  | cache {s : State} {i : Nat} {p : Tri Sample} (pixel : curTriple s i = .ok p) :
      GroupWrite s (s.withIch (ichInsert (ichSlots s) p s.ich))
  | ichMode {s : State} {m : ModeRegs} (line : m.lineOpen = s.mode.lineOpen)
      (pending : m.groupPending = s.mode.groupPending) : GroupWrite s (s.withMode m)
  | sizes (s : State) (v : SizeRegs) : GroupWrite s (s.withSize v)
  | codedBits (s : State) (n : Word) : GroupWrite s (s.withPos { s.pos with codedBitsTotal := n })
  | flatNext (s : State) (f : FlatRec) : GroupWrite s (s.setFlatNext f)
  | search {s : State} {gs : Nat} {b : BpRegs} (found : bpSearchGroup s gs = .ok b) : GroupWrite s (s.withBp b)

/-- The writes of a group command, in any number. -/
abbrev GroupWrites : State → State → Prop := Relation.ReflTransGen GroupWrite

/-- One write of `RC_UPDATE` (43_rate_control.md R300 to R330). -/
inductive RateWrite : State → State → Prop
  | buffer (s : State) (v : BufRegs) : RateWrite s (s.withBuf v)
  | pixels (s : State) (n : Word) : RateWrite s (s.withPos { s.pos with pixelCount := n })
  | chunkOut (s : State) (io : BitIo) : RateWrite s (s.withIo io)
  | model (s : State) (v : RcRegs) : RateWrite s (s.withRc v)
  | flatness {s : State} {f : FlatRegs} (position : f.sgPos = s.flat.sgPos) : RateWrite s (s.withFlat f)
  | qp (s : State) (v : QpRegs) : RateWrite s (s.withQp v)
  | sizes (s : State) (v : SizeRegs) : RateWrite s (s.withSize v)
  | force (s : State) (b : Bool) : RateWrite s (s.withMode { s.mode with forceMpp := b })
  | groupDone (s : State) : RateWrite s (s.withMode { s.mode with groupPending := false })
  | result (s : State) (v : Int) : RateWrite s (s.setRes v)

/-- The writes of `RC_UPDATE`, in any number. -/
abbrev RateWrites : State → State → Prop := Relation.ReflTransGen RateWrite

/-- A line buffer that `LINE_END` makes of `prev` by copying reduced samples of `cur` (45_sequencing.md R418). -/
inductive ReducedLine (s : State) : LineBuf → Prop
  | start : ReducedLine s s.prev
  | copy {b : LineBuf} {x : Sample} (c : Cpnt) (i : Nat) (before : ReducedLine s b)
      (sample : storeRead (s.cur.get c) i = some x) :
      ReducedLine s (writeCell b c i (BitVec.ofInt 16 (reduceSample s c x.toNat)))

/-- The configuration is no longer checked, and a finished slice no longer readable (45_sequencing.md R411). -/
def State.unchecked (s : State) : State := s.withSt { s.st with cfgValid := false, sliceDone := false }

/-- The state after a `CFG_CHECK` that passes (45_sequencing.md R413). -/
def State.checkPassed (s : State) : State :=
  (((s.withFlatThresh (defaultThresh s)).withNgChecked (BitVec.ofNat 12 s.ng)).withSt
    { s.st with cfgValid := true }).setRes 1

/-- The state in which a failing `CFG_CHECK` raises (45_sequencing.md R413, log entry 13). -/
def State.checkFailed (s : State) : State := s.withSt { s.st with cfgValid := false }

/-- The state after a `SLICE_START` that is accepted (45_sequencing.md R415). -/
def State.sliceBegun (s : State) (isEncoder : Bool) : State :=
  s.leaveFault.sliceRegs.sliceBp.sliceMems.sliceStatus isEncoder

/-- The state after the position bookkeeping of a group (44_entropy.md R378). -/
def State.groupAdvanced (s : State) (count : Word) (h g : BitVec 16) : State :=
  { s with
    flat := { s.flat with sgPos := s.flat.sgPos + 1 }
    pos := { s.pos with groupCount := count, hPos := h, groupInLine := g }
    mode := { s.mode with groupPending := true } }

/-- `ENC_GROUP` and `DEC_GROUP`. -/
abbrev IsGroup (i : Instr) : Prop := i = .encGroup ∨ i = .decGroup

/-- What a group command demands of the status and mode flags: an active slice with its line open. -/
structure LineActive (s : State) : Prop where
  active : s.st.sliceActive = true
  line : s.mode.lineOpen = true

/-- What a command makes of a state: it holds it, faults, writes `res` alone, or does what its own rule says. -/
inductive Effect : Instr → State → State → Prop
  | hold (i : Instr) (s : State) : Effect i s s
  | fault (i : Instr) (s : State) (r : Raise) : Effect i s (s.enterFault r)
  | result (i : Instr) (s : State) (v : Int) : Effect i s (s.setRes v)
  | cfgByte {s : State} {idx : Nat} (v : Byte) (free : s.st.sliceActive = false) (image : idx ≤ 0x007F) :
      Effect (.cfgWr idx) s (s.withMem (memWrite s.mem idx (clearReserved idx v))).unchecked
  | cfgThresh {s : State} (idx : Nat) (v : BitVec 16) (free : s.st.sliceActive = false) :
      Effect (.cfgWr idx) s (s.withFlatThresh v).unchecked
  | checkPassed {s : State} (free : s.st.sliceActive = false) (legal : LegalConfig s) : Effect .cfgCheck s s.checkPassed
  | checkFailed {s : State} (r : Raise) (free : s.st.sliceActive = false) (illegal : ¬ LegalConfig s) :
      Effect .cfgCheck s (s.checkFailed.enterFault r)
  | startRefused {s : State} (d : Bool) (r : Raise) (free : s.st.sliceActive = false) :
      Effect (.sliceStart d) s (s.leaveFault.enterFault r)
  | sliceStart {s : State} (d : Bool) (free : s.st.sliceActive = false) (valid : s.st.cfgValid = true) :
      Effect (.sliceStart d) s (s.sliceBegun d)
  | lineStart {s : State} (active : s.st.sliceActive = true) : Effect .lineStart s s.lineIch.openLine
  | origWr {s : State} {c : Cpnt} {v : Int} (i : Nat) (low : 0 ≤ v) (high : v ≤ s.maxval c) :
      Effect (.origWr c i) s (s.setOrig c i v)
  | lineEndCut {s : State} {b : LineBuf} (r : Raise) (copied : ReducedLine s b) :
      Effect .lineEnd s ((s.withPrev b).enterFault r)
  | lineEndUnfit {s : State} {b : LineBuf} (r : Raise) (copied : ReducedLine s b) :
      Effect .lineEnd s ((s.withPrev b).lineBp.enterFault r)
  | lineEnd {s : State} {b : LineBuf} {v : BitVec 16} (active : s.st.sliceActive = true)
      (rated : s.mode.groupPending = false) (copied : ReducedLine s b) (next : v.toNat = s.vPos + 1) :
      Effect .lineEnd s ((s.withPrev b).lineBp.closeLine v)
  | groupCut {i : Instr} {s u : State} (r : Raise) (group : IsGroup i) (writes : GroupWrites s u) :
      Effect i s (u.enterFault r)
  | groupUnfit {i : Instr} {s u : State} {p : PosRegs} (f : FlatRegs) (r : Raise) (group : IsGroup i)
      (writes : GroupWrites s u) (sameLine : p.vPos = u.pos.vPos) : Effect i s (((u.withFlat f).withPos p).enterFault r)
  | group {i : Instr} {s u : State} {h g : BitVec 16} (count : Word) (v : Int) (group : IsGroup i)
      (writes : GroupWrites s u) (ready : LineActive s) (inside : s.hPos < s.width) (next : h.toNat = s.hPos + 3)
      (nextGroup : g.toNat = u.pos.groupInLine.toNat + 1) : Effect i s ((u.groupAdvanced count h g).setRes v)
  | rate {s u : State} (writes : RateWrites s u) : Effect .rcUpdate s u
  | rateCut {s u : State} (r : Raise) (writes : RateWrites s u) : Effect .rcUpdate s (u.enterFault r)

/-! ### Commands that write `res` alone -/

/-- A piece that writes `res` last and nothing else, or raises with no write. -/
def Observes (m : Act Unit) : Prop := ∀ s, Ends m s (fun _ t => ∃ v, t = s.setRes v) fun _ t => t = s

theorem observes_writeRes (v : Int) : Observes (writeRes v) := fun s => ends_ok (act_writeRes v s) ⟨v, rfl⟩

theorem observes_bind {α : Type} {m : Act α} {f : α → Act Unit} (hm : ∀ s, Keeps (· = s) m)
    (hf : ∀ a, Observes (f a)) : Observes (m >>= f) := fun s =>
  ends_bind (ends_of_keeps (hm s) rfl (fun a _ ht => ht ▸ hf a s) fun _ _ ht => ht)

/-- A demand or a read before the rest of an observing piece. -/
theorem observes_demand {p : State → Bool} {k : FaultKind} {info : State → Int} {f : Unit → Act Unit}
    (hf : ∀ a, Observes (f a)) : Observes (demand p k info >>= f) :=
  observes_bind (fun _ => keeps_demand p k info) hf

theorem observes_sense {α : Type} {g : State → Rd α} {f : α → Act Unit} (hf : ∀ a, Observes (f a)) :
    Observes (sense g >>= f) := observes_bind (fun _ => keeps_sense g) hf

theorem observes_look {α : Type} {g : State → α} {f : α → Act Unit} (hf : ∀ a, Observes (f a)) :
    Observes (look g >>= f) := observes_bind (fun _ => keeps_look g) hf

/-- What the text of an observing command ends in, as an effect. -/
theorem Observes.ends {m : Act Unit} (hm : Observes m) (i : Instr) (s : State) :
    Ends m s (fun _ t => Effect i s t) fun r t => Effect i s (t.enterFault r) where
  answers a t h := by
    obtain ⟨v, rfl⟩ := (hm s).answers a t h
    exact .result i s v
  raises r t h := (hm s).raises r t h ▸ .fault i s r

theorem Observes.effect {m : Act Unit} (hm : Observes m) (i : Instr) {s t : State} (h : unlessFaulted m s = .next t) :
    Effect i s t := unlessFaulted_ends (.hold i s) (hm.ends i s) h

theorem predValue_keeps (c : Cpnt) (sel : PredClass) (h : Nat) (s : State) : Keeps (· = s) (predValue c sel h) := by
  cases sel with
  | left => exact keeps_sense _
  | map => exact keeps_bind (keeps_demand _ _ _) fun _ => keeps_sense _
  | bp => exact keeps_bind (keeps_demand _ _ _) fun _ => keeps_sense _

section Observers

variable {s t : State}

theorem execMapq_effect {c : Cpnt} (h : execMapq c s = .next t) : Effect (.mapq c) s t :=
  Observes.effect (observes_demand fun _ => observes_sense fun _ => observes_writeRes _) _ h

theorem execQuant_effect (h : execQuant s = .next t) : Effect .quant s t :=
  Observes.effect (observes_demand fun _ => observes_demand fun _ => observes_look fun _ => observes_writeRes _) _ h

theorem execDequant_effect (h : execDequant s = .next t) : Effect .dequant s t :=
  Observes.effect (observes_demand fun _ => observes_demand fun _ => observes_look fun _ => observes_demand fun _ =>
    observes_writeRes _) _ h

theorem execRsize_effect (h : execRsize s = .next t) : Effect .rsize s t :=
  Observes.effect (observes_demand fun _ => observes_look fun _ => observes_writeRes _) _ h

theorem execRecon_effect {c : Cpnt} (h : execRecon c s = .next t) : Effect (.recon c) s t :=
  Observes.effect (observes_demand fun _ => observes_look fun _ => observes_writeRes _) _ h

theorem execPred_effect {c : Cpnt} {sel : PredClass} {k : Nat} (h : execPred c sel k s = .next t) :
    Effect (.pred c sel k) s t :=
  Observes.effect (observes_demand fun _ => observes_demand fun _ => observes_bind (predValue_keeps c sel k) fun _ =>
    observes_writeRes _) _ h

theorem execMidpoint_effect {c : Cpnt} {gs : Nat} (h : execMidpoint c gs s = .next t) : Effect (.midpoint c gs) s t :=
  Observes.effect (observes_demand fun _ => observes_demand fun _ => observes_demand fun _ => observes_sense fun _ =>
    observes_writeRes _) _ h

theorem execIchLookup_effect {c : Cpnt} {k : Nat} (h : execIchLookup c k s = .next t) : Effect (.ichLookup c k) s t :=
  Observes.effect (observes_demand fun _ => observes_demand fun _ => observes_demand fun _ => observes_sense fun _ =>
    observes_writeRes _) _ h

theorem execIchTest_effect {gs : Nat} (h : execIchTest gs s = .next t) : Effect (.ichTest gs) s t :=
  Observes.effect (observes_demand fun _ => observes_demand fun _ => observes_sense fun _ => observes_writeRes _) _ h

theorem execIchPick_effect {k : Nat} (h : execIchPick k s = .next t) : Effect (.ichPick k) s t :=
  Observes.effect (observes_demand fun _ => observes_demand fun _ => observes_sense fun _ => observes_writeRes _) _ h

theorem execFlatDetect_effect {gs : Nat} (h : execFlatDetect gs s = .next t) : Effect (.flatDetect gs) s t :=
  Observes.effect (observes_demand fun _ => observes_demand fun _ => observes_demand fun _ => observes_sense fun _ =>
    observes_writeRes _) _ h

theorem execPsizeAdj_effect {c : Cpnt} (h : execPsizeAdj c s = .next t) : Effect (.psizeAdj c) s t :=
  Observes.effect (observes_demand fun _ => observes_sense fun _ => observes_writeRes _) _ h

theorem execPixRd_effect {c : Cpnt} {i : Nat} (h : execPixRd c i s = .next t) : Effect (.pixRd c i) s t :=
  Observes.effect (observes_demand fun _ => observes_demand fun _ => observes_sense fun _ => observes_writeRes _) _ h

theorem execRegRd_effect {idx : Nat} (h : execRegRd idx s = .next t) : Effect (.regRd idx) s t :=
  complete_ends (Observes.ends (observes_sense fun _ => observes_writeRes _) _ s) h

theorem execNop_effect (h : execNop s = .next t) : Effect .nop s t := by
  cases h
  exact .hold .nop s

end Observers

/-! ### Configuration and slice commands -/

section Sequencing

variable {s t : State}

theorem writeConfig_ends (idx : Nat) (s : State) (free : s.st.sliceActive = false) :
    Ends (writeConfig idx) s (fun _ u => Effect (.cfgWr idx) s u.unchecked)
      fun r u => Effect (.cfgWr idx) s (u.enterFault r) := by
  unfold writeConfig
  split
  · exact ends_bind (ends_demand (fun _ => ends_update (.cfgByte _ free ‹_›)) fun r => .fault _ s r)
  · split
    · exact ends_bind (ends_demand (fun _ => ends_update (.cfgThresh idx _ free)) fun r => .fault _ s r)
    · exact ends_error (act_raise _ _ s) (.fault _ s _)

theorem execCfgWr_effect {idx : Nat} (h : execCfgWr idx s = .next t) : Effect (.cfgWr idx) s t := by
  refine complete_ends (ends_bind (ends_demand (fun free => ends_bind ?_) fun r => .fault _ s r)) h
  exact (writeConfig_ends idx s (by simpa using free)).mono fun _ _ hu => ends_update hu

theorem execCfgCheck_effect (h : execCfgCheck s = .next t) : Effect .cfgCheck s t := by
  refine complete_ends (ends_bind (ends_demand (fun free => ends_bind (ends_look ?_)) fun r => .fault _ s r)) h
  have free : s.st.sliceActive = false := by simpa using free
  cases hf : firstFailing (cfgTests s) with
  | none =>
    have hpass : cfgPass s = .ok () s.checkPassed := rfl
    exact ends_ok hpass (.checkPassed free ((firstFailing_eq_none_iff s).1 hf))
  | some f =>
    have hfail : cfgFail f s = .error (raising f.kind f.bit) s.checkFailed := rfl
    have illegal : ¬ LegalConfig s := fun legal => by simp [(firstFailing_eq_none_iff s).2 legal] at hf
    exact ends_error hfail (.checkFailed _ free illegal)

theorem execSliceStart_effect {d : Bool} (h : execSliceStart d s = .next t) : Effect (.sliceStart d) s t := by
  refine complete_ends (s := s) (ends_bind (ends_demand (fun free => ends_bind (ends_update ?_)) fun r => .fault _ s r)) h
  have free : s.st.sliceActive = false := by simpa using free
  exact ends_bind (ends_demand (fun valid => ends_update (.sliceStart d free valid)) fun r => .startRefused d r free)

theorem execLineStart_effect (h : execLineStart s = .next t) : Effect .lineStart s t := by
  refine unlessFaulted_ends (.hold _ s) (ends_bind (ends_demand (fun _ => ends_bind (ends_demand
    (fun ready => ends_update (.lineStart ?_)) fun r => .fault _ s r)) fun r => .fault _ s r)) h
  simp only [Bool.and_eq_true] at ready
  exact ready.1

theorem execOrigWr_effect {c : Cpnt} {i : Nat} (h : execOrigWr c i s = .next t) : Effect (.origWr c i) s t := by
  refine unlessFaulted_ends (.hold _ s) (ends_bind (ends_demand (fun _ => ends_bind (ends_demand (fun _ =>
    ends_bind (ends_demand (fun range => ends_update ?_) fun r => .fault _ s r)) fun r => .fault _ s r))
    fun r => .fault _ s r)) h
  obtain ⟨low, high⟩ := of_decide_eq_true range
  exact .origWr i low high

/-! ### `LINE_END` -/

/-- The state with some reduced samples of the line copied. -/
def CopiedFrom (s u : State) : Prop := ∃ b, ReducedLine s b ∧ u = s.withPrev b

theorem reduceCell_keeps (s : State) (c : Cpnt) (i : Nat) : Keeps (CopiedFrom s) (reduceCell c i) := by
  refine keeps_sense_bind fun u x ⟨b, hb, hu⟩ hx => ?_
  subst hu
  cases hr : storeRead (s.cur.get c) i with
  | none => rw [show readCell .cur (s.withPrev b).cur c i = _ from readCell_none hr] at hx; cases hx
  | some v =>
    rw [show readCell .cur (s.withPrev b).cur c i = _ from readCell_some hr] at hx
    cases hx
    exact ⟨_, hb.copy c i hr, rfl⟩

theorem reduceLines_keeps (s : State) : Keeps (CopiedFrom s) (forAll reduceLine Idx3.all) :=
  keeps_forAll (fun c => keeps_bind (keeps_look _) fun w => keeps_forAll (reduceCell_keeps s c) (List.range w)) _

theorem execLineEnd_effect (h : execLineEnd s = .next t) : Effect .lineEnd s t := by
  refine unlessFaulted_ends (.hold _ s) (ends_bind (ends_demand (fun _ => ends_bind (ends_demand (fun ready =>
    ends_bind (ends_of_keeps (reduceLines_keeps s) ⟨s.prev, .start, rfl⟩ (fun _ u ⟨b, hb, hu⟩ => ?_)
      fun r u ⟨b, hb, hu⟩ => hu ▸ .lineEndCut r hb)) fun r => .fault _ s r)) fun r => .fault _ s r)) h
  subst hu
  simp only [Bool.and_eq_true, Bool.not_eq_true'] at ready
  refine ends_bind (ends_update (ends_bind (ends_look (ends_bind (ends_fitU (fun v hv => ends_update ?_) fun r => ?_)))))
  · exact .lineEnd ready.1.1.1 ready.1.2 hb (Int.ofNat.inj hv)
  · exact .lineEndUnfit r hb

end Sequencing

/-! ### `RC_UPDATE` -/

section Rate

variable {s : State}

theorem keeps_rateWrite {f : State → State} (h : ∀ u, RateWrite u (f u)) : Keeps (RateWrites s) (update f) :=
  keeps_update fun u hu => hu.tail (h u)

theorem rcAdd_keeps : Keeps (RateWrites s) rcAdd :=
  keeps_bind (keeps_look _) fun _ => keeps_bind (keeps_fitS _ _) fun _ =>
    keeps_bind (keeps_rateWrite fun _ => .buffer _ _) fun _ => keeps_bind (keeps_look _) fun _ =>
      keeps_bind (keeps_fitS _ _) fun _ => keeps_rateWrite fun _ => .buffer _ _

theorem rcRemoveBits_keeps : Keeps (RateWrites s) rcRemoveBits :=
  keeps_bind (keeps_look _) fun _ => keeps_bind (keeps_look _) fun _ => keeps_bind (keeps_fitS _ _) fun _ =>
    keeps_bind (keeps_look _) fun _ => keeps_bind (keeps_fitU _ _ _) fun _ => keeps_rateWrite fun _ => .buffer _ _

theorem rcPixelTime_keeps : Keeps (RateWrites s) rcPixelTime :=
  keeps_bind (keeps_look _) fun _ => keeps_bind (keeps_fitU _ _ _) fun _ =>
    keeps_bind (keeps_rateWrite fun _ => .pixels _ _) fun _ => keeps_bind (keeps_look _) fun _ =>
      keeps_ite rcRemoveBits_keeps (keeps_pure ())

theorem rcRemove_keeps : Keeps (RateWrites s) rcRemove :=
  keeps_bind (keeps_look _) fun n => keeps_times rcPixelTime_keeps n

theorem rcBounds_keeps : Keeps (RateWrites s) rcBounds :=
  keeps_bind (keeps_demand _ _ _) fun _ => keeps_bind (keeps_look _) fun _ =>
    keeps_ite
      (keeps_bind (keeps_demand _ _ _) fun _ => keeps_bind (keeps_look _) fun _ => keeps_bind (keeps_fitU _ _ _) fun _ =>
        keeps_rateWrite fun _ => .buffer _ _)
      (keeps_pure ())

theorem rcChunkCbr_keeps : Keeps (RateWrites s) rcChunkCbr :=
  keeps_bind (keeps_look _) fun _ => keeps_bind (keeps_fitS _ _) fun _ => keeps_rateWrite fun _ => .buffer _ _

theorem rcChunkVbr_keeps : Keeps (RateWrites s) rcChunkVbr :=
  keeps_bind (keeps_look _) fun _ => keeps_bind (keeps_demand _ _ _) fun _ =>
    keeps_bind (keeps_rateWrite fun _ => .chunkOut _ _) fun _ => keeps_bind (keeps_look _) fun _ =>
      keeps_bind (keeps_fitU _ _ _) fun _ => keeps_rateWrite fun _ => .buffer _ _

theorem rcChunk_keeps : Keeps (RateWrites s) rcChunk := by
  refine keeps_bind (keeps_look _) fun _ => keeps_ite (keeps_bind (keeps_look _) fun _ => ?_) (keeps_pure ())
  refine keeps_ite (keeps_bind rcChunkVbr_keeps fun _ => ?_) (keeps_bind rcChunkCbr_keeps fun _ => ?_) <;>
    exact keeps_bind (keeps_look _) fun _ => keeps_bind (keeps_fitU _ _ _) fun _ => keeps_rateWrite fun _ => .buffer _ _

theorem rcTransform_keeps : Keeps (RateWrites s) rcTransform :=
  keeps_bind (keeps_look _) fun _ => keeps_bind (keeps_fitS _ _) fun _ =>
    keeps_bind (keeps_rateWrite fun _ => .model _ _) fun _ => keeps_bind (keeps_rateWrite fun _ => .model _ _) fun _ =>
      keeps_rateWrite fun _ => .model _ _

theorem rcModel_keeps : Keeps (RateWrites s) rcModel :=
  keeps_bind (keeps_look _) fun _ => keeps_bind (keeps_fitS _ _) fun _ =>
    keeps_bind (keeps_rateWrite fun _ => .model _ _) fun _ => keeps_demand _ _ _

/-- The supergroup shift moves records and not the position in the supergroup (43_rate_control.md R325). -/
theorem flatShift_sgPos (f : FlatRegs) : (flatShift f).sgPos = f.sgPos := by
  unfold flatShift
  split <;> rfl

theorem rcCommitQp_keeps : Keeps (RateWrites s) rcCommitQp :=
  keeps_bind (keeps_look _) fun _ => keeps_bind (keeps_rateWrite fun u => .flatness (flatShift_sgPos u.flat)) fun _ =>
    keeps_bind (keeps_rateWrite fun _ => .flatness rfl) fun _ => keeps_bind (keeps_look _) fun _ =>
      keeps_bind (keeps_rateWrite fun _ => .qp _ _) fun _ => keeps_rateWrite fun _ => .sizes _ _

theorem rcFinish_keeps : Keeps (RateWrites s) rcFinish :=
  keeps_bind (keeps_rateWrite fun _ => .groupDone _) fun _ => keeps_bind (keeps_look _) fun _ =>
    keeps_rateWrite fun _ => .result _ _

theorem execRcUpdate_effect {t : State} (h : execRcUpdate s = .next t) : Effect .rcUpdate s t := by
  refine unlessFaulted_ends (.hold _ s) (ends_of_keeps (P := RateWrites s) ?_ .refl (fun _ _ => .rate)
    fun r _ => .rateCut r) h
  exact keeps_bind (keeps_demand _ _ _) fun _ => keeps_bind (keeps_demand _ _ _) fun _ => keeps_bind rcAdd_keeps fun _ =>
    keeps_bind rcRemove_keeps fun _ => keeps_bind rcBounds_keeps fun _ => keeps_bind rcChunk_keeps fun _ =>
      keeps_bind rcTransform_keeps fun _ => keeps_bind rcModel_keeps fun _ =>
        keeps_bind (keeps_rateWrite fun _ => .model _ _) fun _ => keeps_bind (keeps_rateWrite fun _ => .model _ _) fun _ =>
          keeps_bind rcCommitQp_keeps fun _ => keeps_bind (keeps_rateWrite fun _ => .force _ _) fun _ => rcFinish_keeps

end Rate

end Sys2Proof.Machine

namespace Sys2Proof.Machine

/-! ### The group commands -/

section Group

variable {s : State}

theorem keeps_groupWrite {f : State → State} (h : ∀ u, GroupWrite u (f u)) : Keeps (GroupWrites s) (update f) :=
  keeps_update fun u hu => hu.tail (h u)

theorem groupWrites_streams (u : State) (io : BitIo) (h : GroupWrites s u) : GroupWrites s (u.withIo io) :=
  h.tail (.streams u io)

theorem putList_group (c : Cpnt) (bs : List Bool) : Keeps (GroupWrites s) (putList c bs) :=
  keeps_putList groupWrites_streams c bs

theorem putBits_group (c : Cpnt) (n v : Nat) : Keeps (GroupWrites s) (putBits c n v) := putList_group c (toBits n v)

theorem getBits_group (c : Cpnt) (n : Nat) : Keeps (GroupWrites s) (getBits c n) := keeps_getBits groupWrites_streams c n

/-! Flatness fields and units. -/

theorem setFlatNext_group (f : FlatRec) (n : Nat) :
    Keeps (GroupWrites s) (do update (fun s => s.setFlatNext f); pure n) :=
  keeps_bind (keeps_groupWrite fun _ => .flatNext _ _) fun _ => keeps_pure _

theorem encFlat_group (gs : Nat) : Keeps (GroupWrites s) (encFlat gs) := by
  have hput (f : FlatRec) : Keeps (GroupWrites s) (putFlatFields f) :=
    keeps_bind (putBits_group _ _ _) fun _ =>
      keeps_ite
        (keeps_bind (putBits_group _ _ _) fun _ => keeps_bind (putBits_group _ _ _) fun _ => keeps_pure _)
        (keeps_pure _)
  exact keeps_bind (keeps_look _) fun _ => keeps_ite
    (keeps_bind (keeps_look _) fun _ => keeps_ite
      (keeps_bind (keeps_sense _) fun f => keeps_bind (hput f) fun n => setFlatNext_group f n)
      (setFlatNext_group _ 0))
    (keeps_pure _)

theorem decFlat_group : Keeps (GroupWrites s) decFlat := by
  have hget : Keeps (GroupWrites s) getFlatFields :=
    keeps_bind (getBits_group _ _) fun _ =>
      keeps_ite (keeps_bind (getBits_group _ _) fun _ => keeps_bind (getBits_group _ _) fun _ => keeps_pure _) (keeps_pure _)
  exact keeps_bind (keeps_look _) fun _ => keeps_ite
    (keeps_bind (keeps_look _) fun _ =>
      keeps_ite (keeps_bind hget fun f => setFlatNext_group f.1 f.2) (setFlatNext_group _ 0))
    (keeps_pure _)

theorem writePixel_group (c : Cpnt) (gs : Nat) (i : Pix) (q : Nat) (p e : Int) :
    Keeps (GroupWrites s) (writePixel c gs i q p e) :=
  keeps_update fun u hu => (hu.tail (.pixel u c _ p _)).tail (.scratch _ c i p e)

theorem normalPixel_group (c : Cpnt) (gs q : Nat) (i : Pix) (r0 r1 : Int) :
    Keeps (GroupWrites s) (normalPixel c gs q i r0 r1) :=
  keeps_bind (keeps_sense _) fun _ => keeps_bind (keeps_sense _) fun _ =>
    keeps_bind (writePixel_group _ _ _ _ _ _) fun _ => keeps_pure _

theorem normalUnit_group (c : Cpnt) (gs q : Nat) : Keeps (GroupWrites s) (normalUnit c gs q) :=
  keeps_bind (normalPixel_group _ _ _ _ _ _) fun _ => keeps_bind (normalPixel_group _ _ _ _ _ _) fun _ =>
    keeps_bind (normalPixel_group _ _ _ _ _ _) fun _ => keeps_pure _

theorem mppUnit_group (c : Cpnt) (gs : Nat) (p : UnitPlan) : Keeps (GroupWrites s) (mppUnit c gs p) :=
  keeps_bind (keeps_sense _) fun _ => keeps_forAll (fun _ =>
    keeps_bind (keeps_sense _) fun _ => writePixel_group _ _ _ _ _ _) _

theorem encUnit_group (c : Cpnt) (gs : Nat) : Keeps (GroupWrites s) (encUnit c gs) :=
  keeps_bind (keeps_sense _) fun _ => keeps_bind (normalUnit_group _ _ _) fun _ => keeps_bind (keeps_look _) fun _ =>
    keeps_ite (keeps_bind (mppUnit_group _ _ _) fun _ => keeps_pure _) (keeps_pure _)

theorem putUnit_group (l : Bool) (c : Cpnt) (u : UnitCode) : Keeps (GroupWrites s) (putUnit l c u) := by
  have hres (n : Nat) (i : Pix) : Keeps (GroupWrites s) (putResidual c n i) :=
    keeps_bind (keeps_look _) fun _ => putBits_group _ _ _
  exact keeps_bind (putList_group _ _) fun _ => keeps_bind (hres _ _) fun _ => keeps_bind (hres _ _) fun _ =>
    keeps_bind (hres _ _) fun _ => keeps_pure _

theorem decRecon_group (c : Cpnt) (gs : Nat) (u : UnitCode) (e : Tri Int) : Keeps (GroupWrites s) (decRecon c gs u e) := by
  have hpix (q : Nat) (i : Pix) (r0 r1 e : Int) : Keeps (GroupWrites s) (decPixel c gs q i r0 r1 e) :=
    keeps_bind (keeps_sense _) fun _ => writePixel_group _ _ _ _ _ _
  exact keeps_ite
    (keeps_bind (keeps_sense _) fun _ => keeps_forAll (fun _ => writePixel_group _ _ _ _ _ _) _)
    (keeps_bind (hpix _ _ _ _ _) fun _ => keeps_bind (hpix _ _ _ _ _) fun _ => hpix _ _ _ _ _)

theorem decUnit_group (c : Cpnt) (gs : Nat) (l : Bool) (u : UnitPlan) (v : Nat) :
    Keeps (GroupWrites s) (decUnit c gs l u v) := by
  have hres (n : Nat) : Keeps (GroupWrites s) (getResidual c n) := keeps_bind (getBits_group _ _) fun _ => keeps_pure _
  exact keeps_bind (hres _) fun _ => keeps_bind (hres _) fun _ => keeps_bind (hres _) fun _ =>
    keeps_bind (decRecon_group _ _ _ _) fun _ => keeps_pure _

theorem decChroma_group (c : Cpnt) (gs : Nat) (l : Bool) (u : UnitPlan) : Keeps (GroupWrites s) (decChroma c gs l u) :=
  keeps_bind (keeps_getUnary groupWrites_streams _ _) fun v => decUnit_group c gs l u v

/-! ICH groups. -/

theorem setIchIdx_group (i : Pix) (k : Nat) : Keeps (GroupWrites s) (update fun s => s.setIchIdx i k) :=
  keeps_groupWrite fun _ => .ichMode rfl rfl

theorem ichGroup_group (gs : Nat) (ks : Tri Nat) : Keeps (GroupWrites s) (ichGroup gs ks) := by
  have hrecon (i : Pix) (c : Cpnt) : Keeps (GroupWrites s) (ichRecon gs ks i c) :=
    keeps_sense_bind fun u v hu hv => hu.tail (.ichPixel _ hv)
  have hscratch (i : Pix) (c : Cpnt) : Keeps (GroupWrites s) (ichScratch gs i c) :=
    keeps_bind (keeps_sense _) fun _ => keeps_groupWrite fun _ => .scratch _ _ _ _ _
  exact keeps_bind (keeps_forAll (fun _ => hrecon _ _) _) fun _ => keeps_forAll (fun _ => hscratch _ _) _

theorem putIchGroup_group (gs : Nat) (l : Bool) (u : UnitPlan) (ks : Tri Nat) :
    Keeps (GroupWrites s) (putIchGroup gs l u ks) := by
  have hidx (i : Pix) : Keeps (GroupWrites s) (putIchIdx ks i) :=
    keeps_bind (putBits_group _ _ _) fun _ => keeps_bind (setIchIdx_group _ _) fun _ => keeps_pure _
  exact keeps_bind (putList_group _ _) fun _ => keeps_bind (hidx _) fun _ => keeps_bind (hidx _) fun _ =>
    keeps_bind (hidx _) fun _ => keeps_bind (ichGroup_group _ _) fun _ => keeps_pure _

theorem getIchGroup_group (gs : Nat) : Keeps (GroupWrites s) (getIchGroup gs) := by
  have hidx (i : Pix) : Keeps (GroupWrites s) (getIchIdx i) :=
    keeps_bind (getBits_group _ _) fun _ => keeps_bind (keeps_demand _ _ _) fun _ =>
      keeps_bind (setIchIdx_group _ _) fun _ => keeps_pure _
  exact keeps_bind (hidx _) fun _ => keeps_bind (hidx _) fun _ => keeps_bind (hidx _) fun _ =>
    keeps_bind (ichGroup_group _ _) fun _ => keeps_pure _

/-! A whole group. -/

theorem encEmit_group (gs : Nat) (us : Tri UnitCode) (d : Option (Tri Nat)) : Keeps (GroupWrites s) (encEmit gs us d) := by
  cases d with
  | some ks => exact keeps_bind (keeps_look _) fun _ => keeps_bind (putIchGroup_group _ _ _ _) fun _ => keeps_pure _
  | none =>
    exact keeps_bind (keeps_look _) fun _ => keeps_bind (putUnit_group _ _ _) fun _ =>
      keeps_bind (putUnit_group _ _ _) fun _ => keeps_bind (putUnit_group _ _ _) fun _ => keeps_pure _

theorem decRead_group (gs : Nat) (us : Tri UnitPlan) : Keeps (GroupWrites s) (decRead gs us) :=
  keeps_bind (keeps_look _) fun _ => keeps_bind (keeps_getUnary groupWrites_streams _ _) fun _ =>
    keeps_ite (keeps_bind (getIchGroup_group _) fun _ => keeps_pure _)
      (keeps_bind (decUnit_group _ _ _ _ _) fun _ => keeps_bind (decChroma_group _ _ _ _) fun _ =>
        keeps_bind (decChroma_group _ _ _ _) fun _ => keeps_pure _)

theorem groupSizes_group (bits : Nat) (g : GroupCode) : Keeps (GroupWrites s) (groupSizes bits g) :=
  keeps_bind (keeps_groupWrite fun _ => .ichMode rfl rfl) fun _ => keeps_bind (keeps_demand _ _ _) fun _ =>
    keeps_bind (keeps_groupWrite fun _ => .sizes _ _) fun _ => keeps_bind (keeps_look _) fun _ =>
      keeps_bind (keeps_fitU _ _ _) fun _ => keeps_bind (keeps_groupWrite fun _ => .codedBits _ _) fun _ =>
        keeps_groupWrite fun _ => .sizes _ _

theorem ichUpdateGroup_group (gs : Nat) (b : Bool) : Keeps (GroupWrites s) (ichUpdateGroup gs b) := by
  have hpix (i : Nat) : Keeps (GroupWrites s) (ichUpdatePixel i) := keeps_sense_bind fun u p hu hp => hu.tail (.cache hp)
  exact keeps_bind (keeps_look _) fun _ => keeps_ite (keeps_forAll (fun _ => hpix _) _) (keeps_pure _)

/-- What the last step of a group command makes of a state `u`: all registers advanced, or a raise with some of them
written. -/
theorem groupAdvance_ends {u : State} {gs : Nat} {Q : Unit → State → Prop} {E : Raise → State → Prop}
    (hq : ∀ (count : Word) (h g : BitVec 16), h.toNat = gs + 3 → g.toNat = u.pos.groupInLine.toNat + 1 →
      Q () (u.groupAdvanced count h g))
    (he : ∀ r f p, p.vPos = u.pos.vPos → E r ((u.withFlat f).withPos p)) : Ends (groupAdvance gs) u Q E := by
  refine ends_bind (ends_update (ends_bind (ends_look (ends_bind (ends_fitU (fun count _ => ?_)
    fun r => he r { u.flat with sgPos := u.flat.sgPos + 1 } u.pos rfl)))))
  refine ends_bind (ends_update (ends_bind (ends_fitU (fun h hh => ?_) fun r => he r _ _ rfl)))
  refine ends_bind (ends_update (ends_bind (ends_look (ends_bind (ends_fitU (fun g hg => ?_) fun r => he r _ _ rfl)))))
  have hpos : h.toNat = gs + 3 := by omega
  have hgroup : g.toNat = u.pos.groupInLine.toNat + 1 := Int.ofNat.inj hg
  refine ends_bind (ends_update (ends_update ?_))
  simpa only [State.withFlat, State.withPos, State.withMode, State.groupAdvanced] using hq count h g hpos hgroup

/-- The bookkeeping of a group whose writes so far lead from `s`, which accepted the command, to `u`. -/
theorem finishGroup_ends {i : Instr} (group : IsGroup i) (hopen : LineActive s) (inside : s.hPos < s.width) {u : State}
    (hu : GroupWrites s u) (bits : Nat) (g : GroupCode) :
    Ends (finishGroup s.hPos bits g) u (fun _ t => Effect i s t) fun r t => Effect i s (t.enterFault r) := by
  have hcut : ∀ r t, GroupWrites s t → Effect i s (t.enterFault r) := fun r _ ht => .groupCut r group ht
  refine ends_bind (ends_of_keeps (groupSizes_group bits g) hu (fun _ v hv => ?_) hcut)
  refine ends_bind (ends_bind (ends_of_keeps (ichUpdateGroup_group _ _) hv (fun _ w hw => ?_) hcut))
  refine ends_bind (ends_sense (fun b hb => ends_bind (ends_update ?_)) fun r => hcut r w hw)
  have hx : GroupWrites s (w.withBp b) := hw.tail (.search hb)
  refine groupAdvance_ends (fun count h k hh hk => ?_) fun r f p hp => .groupUnfit f r group hx hp
  exact ends_update (.group count bits group hx hopen inside hh hk)

theorem encodeGroup_ends (hopen : LineActive s) (inside : s.hPos < s.width) :
    Ends (encodeGroup s.hPos) s (fun _ t => Effect .encGroup s t) fun r t => Effect .encGroup s (t.enterFault r) := by
  have hcut : ∀ r t, GroupWrites s t → Effect .encGroup s (t.enterFault r) := fun r _ ht => .groupCut r (.inl rfl) ht
  refine ends_bind (ends_of_keeps (encFlat_group _) .refl (fun _ _ hu => ?_) hcut)
  refine ends_bind (ends_of_keeps (encUnit_group _ _) hu (fun _ _ hu => ?_) hcut)
  refine ends_bind (ends_of_keeps (encUnit_group _ _) hu (fun _ _ hu => ?_) hcut)
  refine ends_bind (ends_of_keeps (encUnit_group _ _) hu (fun _ _ hu => ?_) hcut)
  refine ends_bind (ends_of_keeps (keeps_sense _) hu (fun _ _ hu => ?_) hcut)
  refine ends_bind (ends_of_keeps (encEmit_group _ _ _) hu (fun _ _ hu => ?_) hcut)
  exact finishGroup_ends (.inl rfl) hopen inside hu _ _

theorem decodeGroup_ends (hopen : LineActive s) (inside : s.hPos < s.width) :
    Ends (decodeGroup s.hPos) s (fun _ t => Effect .decGroup s t) fun r t => Effect .decGroup s (t.enterFault r) := by
  have hcut : ∀ r t, GroupWrites s t → Effect .decGroup s (t.enterFault r) := fun r _ ht => .groupCut r (.inr rfl) ht
  refine ends_bind (ends_of_keeps decFlat_group .refl (fun _ _ hu => ?_) hcut)
  refine ends_bind (ends_of_keeps (keeps_sense _) hu (fun _ _ hu => ?_) hcut)
  refine ends_bind (ends_of_keeps (decRead_group _ _) hu (fun _ _ hu => ?_) hcut)
  exact finishGroup_ends (.inr rfl) hopen inside hu _ _

theorem execEncGroup_effect {t : State} (h : execEncGroup s = .next t) : Effect .encGroup s t := by
  refine unlessFaulted_ends (.hold _ s) (ends_bind (ends_demand (fun direction => ends_bind (ends_demand (fun ready =>
    ends_bind (ends_look ?_)) fun r => .fault _ s r)) fun r => .fault _ s r)) h
  simp only [Bool.and_eq_true, decide_eq_true_eq] at direction ready
  exact encodeGroup_ends ⟨direction.1, ready.1.1⟩ ready.2

theorem execDecGroup_effect {t : State} (h : execDecGroup s = .next t) : Effect .decGroup s t := by
  refine unlessFaulted_ends (.hold _ s) (ends_bind (ends_demand (fun direction => ends_bind (ends_demand (fun ready =>
    ends_bind (ends_look ?_)) fun r => .fault _ s r)) fun r => .fault _ s r)) h
  simp only [Bool.and_eq_true, decide_eq_true_eq] at direction ready
  exact decodeGroup_ends ⟨direction.1, ready.1.1⟩ ready.2

end Group

/-! ### Every command, every step -/

/-- Everything a command can do, in every state. -/
theorem exec_effect (i : Instr) {s t : State} (h : exec i s = .next t) : Effect i s t := by
  cases i with
  | nop => exact execNop_effect h
  | cfgWr idx => exact execCfgWr_effect h
  | cfgCheck => exact execCfgCheck_effect h
  | sliceStart d => exact execSliceStart_effect h
  | lineStart => exact execLineStart_effect h
  | lineEnd => exact execLineEnd_effect h
  | origWr c k => exact execOrigWr_effect h
  | pixRd c k => exact execPixRd_effect h
  | regRd idx => exact execRegRd_effect h
  | mapq c => exact execMapq_effect h
  | quant => exact execQuant_effect h
  | dequant => exact execDequant_effect h
  | rsize => exact execRsize_effect h
  | recon c => exact execRecon_effect h
  | pred c sel k => exact execPred_effect h
  | midpoint c gs => exact execMidpoint_effect h
  | ichLookup c k => exact execIchLookup_effect h
  | ichTest gs => exact execIchTest_effect h
  | ichPick k => exact execIchPick_effect h
  | flatDetect gs => exact execFlatDetect_effect h
  | psizeAdj c => exact execPsizeAdj_effect h
  | encGroup => exact execEncGroup_effect h
  | decGroup => exact execDecGroup_effect h
  | rcUpdate => exact execRcUpdate_effect h

theorem step_idle {s : State} (h : s.pending = []) : step s = .next s := by simp [step, h]

theorem step_presented {s : State} {c : Command} {rest : List Command} (h : s.pending = c :: rest) :
    step s = execWord c.word (s.present c rest) := by simp [step, h]

theorem execWord_decoded {w : Word} {i : Instr} (h : decode w = .ok i) (s : State) : execWord w s = exec i s := by
  simp [execWord, h]

theorem execWord_illegal {w : Word} {e : Reject} (h : decode w = .error e) (s : State) :
    execWord w s = illegalWord w s := by simp [execWord, h]

/-- A word that encodes no command faults or is discarded, as a halted `NOP` would be. -/
theorem illegalWord_effect {w : Word} {s t : State} (h : illegalWord w s = .next t) : Effect .nop s t := by
  have hraise : Ends (raise .illegalCmd w.toInt : Act Unit) s (fun _ u => Effect .nop s u)
      fun r u => Effect .nop s (u.enterFault r) :=
    ends_error (act_raise _ _ s) (.fault _ s _)
  unfold illegalWord at h
  split at h
  · exact complete_ends hraise h
  · exact unlessFaulted_ends (.hold _ s) hraise h

/-- A property that the presenting of a command and every effect keep is kept by every step. -/
theorem step_keeps {P : State → Prop} (hp : ∀ s c rest, P s → P (s.present c rest))
    (he : ∀ i s t, P s → Effect i s t → P t) {s t : State} (hs : P s) (h : step s = .next t) : P t := by
  cases hq : s.pending with
  | nil => exact Host.Outcome.next.inj (step_idle hq ▸ h) ▸ hs
  | cons c rest =>
    rw [step_presented hq] at h
    cases hd : decode c.word with
    | ok i => exact he i _ t (hp s c rest hs) (exec_effect i (execWord_decoded hd _ ▸ h))
    | error e => exact he .nop _ t (hp s c rest hs) (illegalWord_effect (execWord_illegal hd _ ▸ h))

end Sys2Proof.Machine

namespace Sys2Proof.Machine

/-! ## Frames

What fault entry, a group command's writes and `RC_UPDATE`'s writes leave unchanged. -/

/-! ### Fault entry -/

section EnterFault

variable (s : State) (r : Raise)

@[simp] theorem enterFault_mem : (s.enterFault r).mem = s.mem := by rw [enterFault_eq]; rfl
@[simp] theorem enterFault_pos : (s.enterFault r).pos = s.pos := by rw [enterFault_eq]; rfl
@[simp] theorem enterFault_flat : (s.enterFault r).flat = s.flat := by rw [enterFault_eq]; rfl
@[simp] theorem enterFault_bp : (s.enterFault r).bp = s.bp := by rw [enterFault_eq]; rfl
@[simp] theorem enterFault_prev : (s.enterFault r).prev = s.prev := by rw [enterFault_eq]; rfl
@[simp] theorem enterFault_cur : (s.enterFault r).cur = s.cur := by rw [enterFault_eq]; rfl
@[simp] theorem enterFault_orig : (s.enterFault r).orig = s.orig := by rw [enterFault_eq]; rfl
@[simp] theorem enterFault_ich : (s.enterFault r).ich = s.ich := by rw [enterFault_eq]; rfl
@[simp] theorem enterFault_ngChecked : (s.enterFault r).ngChecked = s.ngChecked := by rw [enterFault_eq]; rfl
@[simp] theorem enterFault_mode :
    (s.enterFault r).mode = { s.mode with lineOpen := false, groupPending := false } := by rw [enterFault_eq]; rfl

/-- The status registers after fault entry, by those before it and the command on the port. -/
theorem enterFault_st :
    (s.enterFault r).st =
      if s.st.faulted = true then { s.st with sliceActive := false }
      else
        { s.st with
          faulted := true, sliceActive := false, faultCode := some r.kind, faultInfo := r.info,
          faultCmd := s.port.cmd } := by
  split
  · exact enterFault_st_of_faulted ‹_›
  · exact enterFault_st_of_running (by simpa using ‹¬ s.st.faulted = true›)

@[simp] theorem enterFault_faulted : (s.enterFault r).st.faulted = true := by
  rw [enterFault_st]
  split
  · assumption
  · rfl

@[simp] theorem enterFault_sliceActive : (s.enterFault r).st.sliceActive = false := by
  rw [enterFault_st]
  split <;> rfl

@[simp] theorem enterFault_sliceDone : (s.enterFault r).st.sliceDone = s.st.sliceDone := by
  rw [enterFault_st]
  split <;> rfl

@[simp] theorem enterFault_cfgValid : (s.enterFault r).st.cfgValid = s.st.cfgValid := by
  rw [enterFault_st]
  split <;> rfl

@[simp] theorem enterFault_stateValid : (s.enterFault r).st.stateValid = s.st.stateValid := by
  rw [enterFault_st]
  split <;> rfl

end EnterFault

/-! ### The block-prediction search -/

/-- A read that answers after another: both answered. -/
theorem rd_bind_eq_ok {α β : Type} {x : Rd α} {f : α → Rd β} {b : β} :
    (x >>= f) = .ok b ↔ ∃ a, x = .ok a ∧ f a = .ok b := by
  cases x <;> simp [bind, Except.bind]

/-- A list of reads answers as many values. -/
theorem readAll_length {α β : Type} {f : α → Rd β} {l : List α} {bs : List β} (h : readAll f l = .ok bs) :
    bs.length = l.length := by
  induction l generalizing bs with
  | nil => cases h; rfl
  | cons a l ih =>
    obtain ⟨b, -, h⟩ := rd_bind_eq_ok.1 h
    obtain ⟨cs, hcs, h⟩ := rd_bind_eq_ok.1 h
    cases h
    simp [ih hcs]

/-- The search advances the registers by one group of eight costs (40_prediction.md R202). -/
theorem bpSearchGroup_eq_ok {s : State} {gs : Nat} {b : BpRegs} (h : bpSearchGroup s gs = .ok b) :
    ∃ new edge, new.bp.length = 8 ∧ b = bpAdvance s (gs / 3) new edge := by
  obtain ⟨newMap, -, h⟩ := rd_bind_eq_ok.1 h
  obtain ⟨newBp, hbp, h⟩ := rd_bind_eq_ok.1 h
  obtain ⟨edge, -, h⟩ := rd_bind_eq_ok.1 h
  cases h
  have hlen := readAll_length hbp
  exact ⟨⟨newBp.map bpSaturate, bpSaturate newMap⟩, edge, by simpa [bpCandidates] using hlen, rfl⟩

/-! ### The long commands -/

/-- Control is the same in two states: the command, the image, the status registers, the position and the group counts, and
no group has become pending. -/
structure ControlFrame (s t : State) : Prop where
  cmd : t.port.cmd = s.port.cmd
  mem : t.mem = s.mem
  st : t.st = s.st
  vPos : t.pos.vPos = s.pos.vPos
  hPos : t.pos.hPos = s.pos.hPos
  groupInLine : t.pos.groupInLine = s.pos.groupInLine
  sgPos : t.flat.sgPos = s.flat.sgPos
  lineOpen : t.mode.lineOpen = s.mode.lineOpen
  pending : t.mode.groupPending = true → s.mode.groupPending = true
  ngChecked : t.ngChecked = s.ngChecked
  ngSlice : t.bp.ngSlice = s.bp.ngSlice

theorem ControlFrame.refl (s : State) : ControlFrame s s := ⟨rfl, rfl, rfl, rfl, rfl, rfl, rfl, rfl, id, rfl, rfl⟩

theorem ControlFrame.trans {s t u : State} (h : ControlFrame s t) (k : ControlFrame t u) : ControlFrame s u where
  cmd := k.cmd.trans h.cmd
  mem := k.mem.trans h.mem
  st := k.st.trans h.st
  vPos := k.vPos.trans h.vPos
  hPos := k.hPos.trans h.hPos
  groupInLine := k.groupInLine.trans h.groupInLine
  sgPos := k.sgPos.trans h.sgPos
  lineOpen := k.lineOpen.trans h.lineOpen
  pending := fun hp => h.pending (k.pending hp)
  ngChecked := k.ngChecked.trans h.ngChecked
  ngSlice := k.ngSlice.trans h.ngSlice

/-- The image, the line buffers, the cache and the block-prediction registers are the same in two states. -/
structure StorageFrame (s t : State) : Prop where
  mem : t.mem = s.mem
  prev : t.prev = s.prev
  cur : t.cur = s.cur
  orig : t.orig = s.orig
  ich : t.ich = s.ich
  bp : t.bp = s.bp

theorem StorageFrame.refl (s : State) : StorageFrame s s := ⟨rfl, rfl, rfl, rfl, rfl, rfl⟩

theorem StorageFrame.trans {s t u : State} (h : StorageFrame s t) (k : StorageFrame t u) : StorageFrame s u :=
  ⟨k.mem.trans h.mem, k.prev.trans h.prev, k.cur.trans h.cur, k.orig.trans h.orig, k.ich.trans h.ich, k.bp.trans h.bp⟩

theorem enterFault_storageFrame (s : State) (r : Raise) : StorageFrame s (s.enterFault r) := by
  constructor <;> simp

theorem GroupWrite.controlFrame {s t : State} (h : GroupWrite s t) : ControlFrame s t := by
  cases h with
  | ichMode line pending => exact { ControlFrame.refl s with lineOpen := line, pending := fun hp => pending ▸ hp }
  | search found =>
    obtain ⟨new, edge, -, rfl⟩ := bpSearchGroup_eq_ok found
    exact { ControlFrame.refl s with }
  | _ => exact { ControlFrame.refl s with }

theorem GroupWrites.controlFrame {s t : State} (h : GroupWrites s t) : ControlFrame s t := by
  induction h with
  | refl => exact .refl s
  | tail _ hw ih => exact ih.trans hw.controlFrame

/-- A group command writes neither the line above nor the original line. -/
theorem GroupWrites.prev_orig {s t : State} (h : GroupWrites s t) : t.prev = s.prev ∧ t.orig = s.orig := by
  induction h with
  | refl => exact ⟨rfl, rfl⟩
  | tail _ hw ih => cases hw <;> exact ih

theorem RateWrite.controlFrame {s t : State} (h : RateWrite s t) : ControlFrame s t := by
  cases h with
  | flatness position => exact { ControlFrame.refl s with sgPos := position }
  | groupDone => exact { ControlFrame.refl s with pending := fun hp => by cases hp }
  | _ => exact { ControlFrame.refl s with }

theorem RateWrites.controlFrame {s t : State} (h : RateWrites s t) : ControlFrame s t := by
  induction h with
  | refl => exact .refl s
  | tail _ hw ih => exact ih.trans hw.controlFrame

theorem RateWrites.storageFrame {s t : State} (h : RateWrites s t) : StorageFrame s t := by
  induction h with
  | refl => exact .refl s
  | tail _ hw ih => cases hw <;> exact ih.trans ⟨rfl, rfl, rfl, rfl, rfl, rfl⟩

end Sys2Proof.Machine

namespace Sys2Proof.Machine

/-! ## The writers of the status fields -/

/-- The status registers `a` before and `b` after a command with word `w` obey the writers of 10_state.md R38 and R39. -/
structure StatusRules (i : Instr) (w : Word) (a b : Status) : Prop where
  direction : b.isEncoder ≠ a.isEncoder → i = .sliceStart b.isEncoder
  stateKept : a.stateValid = true → b.stateValid = true
  stateRises : a.stateValid = false → b.stateValid = true → ∃ d, i = .sliceStart d
  activeRises : a.sliceActive = false → b.sliceActive = true → ∃ d, i = .sliceStart d
  doneRises : a.sliceDone = false → b.sliceDone = true → i = .lineEnd
  validRises : a.cfgValid = false → b.cfgValid = true → i = .cfgCheck
  activeFalls : a.sliceActive = true → b.sliceActive = false → i = .lineEnd ∨ b.faulted = true
  doneFalls : a.sliceDone = true → b.sliceDone = false → (∃ x, i = .cfgWr x) ∨ ∃ d, i = .sliceStart d
  validFalls : a.cfgValid = true → b.cfgValid = false → (∃ x, i = .cfgWr x) ∨ i = .cfgCheck ∧ b.faulted = true
  faultRecorded : a.faulted = false → b.faulted = true →
    b.faultCmd = w ∧ b.faultCode.isSome = true ∧ b.sliceActive = false
  faultKept : a.faulted = false → b.faulted = false →
    b.faultInfo = a.faultInfo ∧ b.faultCmd = a.faultCmd ∧
      (b.faultCode = a.faultCode ∨ (∃ d, i = .sliceStart d) ∧ b.faultCode = none)

theorem statusRules_same (i : Instr) (w : Word) {a b : Status} (h : b = a) : StatusRules i w a b := by
  subst h
  constructor <;> simp +contextual

/-- A fault records itself, unless one was recorded, and ends the slice. -/
theorem statusRules_fault (i : Instr) (s : State) (r : Raise) : StatusRules i s.port.cmd s.st (s.enterFault r).st := by
  rw [enterFault_st]
  split <;> constructor <;> simp_all

/-- A fault after writes that no status field is among. -/
theorem statusRules_cut (i : Instr) {s u : State} (r : Raise) (hcmd : u.port.cmd = s.port.cmd) (hst : u.st = s.st) :
    StatusRules i s.port.cmd s.st (u.enterFault r).st := by
  have h := statusRules_fault i u r
  rwa [hcmd, hst] at h

@[simp] theorem lineIch_openLine_st (s : State) : s.lineIch.openLine.st = s.st := by
  unfold State.openLine State.lineIch
  split <;> rfl

theorem closeLine_st (s : State) (v : BitVec 16) :
    (s.closeLine v).st = if v.toNat = s.height then { s.st with sliceDone := true, sliceActive := false } else s.st := rfl

/-- Every effect obeys the writers of the status fields. -/
theorem Effect.statusRules {i : Instr} {s t : State} (h : Effect i s t) : StatusRules i s.port.cmd s.st t.st := by
  cases h with
  | hold | result | origWr => exact statusRules_same _ _ rfl
  | fault _ _ r => exact statusRules_fault i s r
  | cfgByte | cfgThresh => constructor <;> simp +contextual [State.unchecked]
  | checkPassed => constructor <;> simp +contextual [State.checkPassed, State.setRes]
  | checkFailed r =>
    rw [enterFault_st]
    split <;> constructor <;> simp_all [State.checkFailed]
  | startRefused d r =>
    rw [enterFault_st]
    split <;> constructor <;> simp_all [State.leaveFault]
  | sliceStart d =>
    constructor <;>
      simp +contextual [State.sliceBegun, State.sliceStatus, State.sliceMems, State.sliceBp, State.sliceRegs]
  | lineStart => exact statusRules_same _ _ (lineIch_openLine_st s)
  | lineEndCut r | lineEndUnfit r => exact statusRules_cut _ r rfl rfl
  | lineEnd active =>
    rw [closeLine_st]
    split
    · constructor <;> simp +contextual [State.lineBp]
    · exact statusRules_same _ _ rfl
  | groupCut r _ writes | groupUnfit _ r _ writes =>
    exact statusRules_cut i r writes.controlFrame.cmd writes.controlFrame.st
  | group _ _ _ writes | rate writes => exact statusRules_same _ _ writes.controlFrame.st
  | rateCut r writes => exact statusRules_cut _ r writes.controlFrame.cmd writes.controlFrame.st

/-- Settles O9: each writer of a status field is read off the effect of the command. -/
theorem statusFieldWriters : Obligations.StatusFieldWriters := by
  intro i s t h
  obtain ⟨direction, stateKept, stateRises, activeRises, doneRises, validRises, activeFalls, doneFalls, validFalls,
    faultRecorded, faultKept⟩ := (exec_effect i h).statusRules
  exact ⟨direction, stateKept, stateRises, activeRises, doneRises, validRises, activeFalls, doneFalls, validFalls,
    faultRecorded, faultKept⟩

/-! ## The writers of the memories -/

/-- The memories of `t` are those of `s`, but for what command `i` may write (10_state.md R35, 20_memory.md R103). -/
structure MemoryRules (i : Instr) (s t : State) : Prop where
  image : t.mem = s.mem ∨ s.st.sliceActive = false ∧ ∃ idx v, i = .cfgWr idx ∧ t.mem = memWrite s.mem idx v
  cur : t.cur = s.cur ∨ i = .encGroup ∨ i = .decGroup ∨ i = .lineStart ∨ ∃ d, i = .sliceStart d
  prev : t.prev = s.prev ∨ i = .lineEnd ∨ ∃ d, i = .sliceStart d
  orig : t.orig = s.orig ∨ (∃ c k, i = .origWr c k) ∨ i = .lineEnd ∨ ∃ d, i = .sliceStart d

theorem memoryRules_same (i : Instr) {s t : State} (h : StorageFrame s t) : MemoryRules i s t :=
  ⟨.inl h.mem, .inl h.cur, .inl h.prev, .inl h.orig⟩

/-- What leaves the memories adds no writer of one. -/
theorem MemoryRules.frame {i : Instr} {s u v : State} (h : MemoryRules i s u) (mem : v.mem = u.mem) (cur : v.cur = u.cur)
    (prev : v.prev = u.prev) (orig : v.orig = u.orig) : MemoryRules i s v :=
  ⟨mem ▸ h.image, cur ▸ h.cur, prev ▸ h.prev, orig ▸ h.orig⟩

theorem MemoryRules.enterFault {i : Instr} {s u : State} (h : MemoryRules i s u) (r : Raise) :
    MemoryRules i s (u.enterFault r) :=
  h.frame (enterFault_mem u r) (enterFault_cur u r) (enterFault_prev u r) (enterFault_orig u r)

theorem memoryRules_group {i : Instr} {s u : State} (group : IsGroup i) (writes : GroupWrites s u) : MemoryRules i s u :=
  ⟨.inl writes.controlFrame.mem, .inr (group.imp_right .inl), .inl writes.prev_orig.1, .inl writes.prev_orig.2⟩

theorem memoryRules_lineEnd (s : State) (b : LineBuf) : MemoryRules .lineEnd s (s.withPrev b) :=
  ⟨.inl rfl, .inl rfl, .inr (.inl rfl), .inl rfl⟩

/-- The memories after a `LINE_START`: the current line alone is written. -/
theorem memoryRules_lineStart (s : State) : MemoryRules .lineStart s s.lineIch.openLine := by
  refine ⟨.inl ?_, .inr (.inr (.inr (.inl rfl))), .inl ?_, .inl ?_⟩ <;>
    (unfold State.openLine State.lineIch; split <;> rfl)

/-- Every effect obeys the writers of the memories. -/
theorem Effect.memoryRules {i : Instr} {s t : State} (h : Effect i s t) : MemoryRules i s t := by
  cases h with
  | hold => exact memoryRules_same i (.refl s)
  | fault _ _ r => exact memoryRules_same i (enterFault_storageFrame s r)
  | result | checkPassed | cfgThresh => exact memoryRules_same _ { StorageFrame.refl s with }
  | cfgByte v free => exact ⟨.inr ⟨free, _, _, rfl, rfl⟩, .inl rfl, .inl rfl, .inl rfl⟩
  | checkFailed r | startRefused d r =>
    refine MemoryRules.enterFault ?_ r
    exact memoryRules_same _ ⟨rfl, rfl, rfl, rfl, rfl, rfl⟩
  | sliceStart d => exact ⟨.inl rfl, .inr (by simp), .inr (by simp), .inr (by simp)⟩
  | lineStart => exact memoryRules_lineStart s
  | origWr => exact ⟨.inl rfl, .inl rfl, .inl rfl, .inr (.inl ⟨_, _, rfl⟩)⟩
  | lineEndCut r => exact (memoryRules_lineEnd s _).enterFault r
  | lineEndUnfit r =>
    refine MemoryRules.enterFault ?_ r
    exact (memoryRules_lineEnd s _).frame rfl rfl rfl rfl
  | lineEnd => exact ⟨.inl rfl, .inl rfl, .inr (.inl rfl), .inr (.inr (.inl rfl))⟩
  | groupCut r group writes => exact (memoryRules_group group writes).enterFault r
  | groupUnfit _ r group writes =>
    refine MemoryRules.enterFault ?_ r
    exact (memoryRules_group group writes).frame rfl rfl rfl rfl
  | group _ _ group writes => exact (memoryRules_group group writes).frame rfl rfl rfl rfl
  | rate writes => exact memoryRules_same _ writes.storageFrame
  | rateCut r writes => exact (memoryRules_same _ writes.storageFrame).enterFault r

/-- Settles O10: a byte that changed was written by a `CFG_WR` of its own index, and a line buffer that changed by one of
its writers. -/
theorem memoryWriters : Obligations.MemoryWriters := by
  intro i s t hwf h
  obtain ⟨image, cur, prev, orig⟩ := (exec_effect i h).memoryRules
  refine ⟨fun a ha => ?_, cur.resolve_left, prev.resolve_left, orig.resolve_left⟩
  rcases image with image | ⟨free, idx, v, rfl, image⟩
  · exact absurd (by rw [image]) ha
  · have hidx : a = idx := by
      by_contra hne
      exact ha (by rw [image, memRead_memWrite _ _ _ _ hwf, if_neg hne])
    exact ⟨by rw [hidx], free⟩

end Sys2Proof.Machine

namespace Sys2Proof.Machine

/-! ## The form of the storage -/

/-! ### The reserved bits of the image -/

/-- Bit k of the value of a bit string is the k-th from its end. -/
theorem ofBits_testBit (bs : List Bool) (k : Nat) : (ofBits bs).testBit k = bs.reverse.getD k false := by
  induction bs using List.reverseRecOn generalizing k with
  | nil => simp
  | append_singleton bs b ih =>
    rw [ofBits_append_one, List.reverse_append]
    cases k with
    | zero => cases b <;> simp [Nat.testBit_zero, Nat.add_mod]
    | succ k =>
      have hhalf : (2 * ofBits bs + b.toNat) / 2 = ofBits bs := by cases b <;> simp; omega
      simp [Nat.testBit_succ, hhalf, ih]

/-- A byte with its reserved bits cleared, bit by bit (45_sequencing.md R411, 30_encoding.md R140). -/
theorem clearReserved_getLsbD (i : Nat) (v : Byte) {b : Nat} (hb : b < 8) :
    (clearReserved i v).getLsbD b = (v.getLsbD b && !ppsBitReserved (8 * i + (7 - b))) := by
  have h7 : 7 - (7 - b) = b := by omega
  have hlt : 7 - b < 8 := by omega
  rw [clearReserved, BitVec.getLsbD_ofNat, ofBits_testBit, List.getD_eq_getElem?_getD, List.getElem?_reverse (by simpa)]
  simp [hb, h7, hlt]

/-- A write of a byte with its reserved bits cleared keeps the image's reserved bits 0. -/
theorem memWrite_reserved {m : Memory} (hm : Memory.wf m) (h : ∀ k, ppsBitReserved k = true → ppsBit m k = false)
    (i : Nat) (v : Byte) (k : Nat) (hk : ppsBitReserved k = true) :
    ppsBit (memWrite m i (clearReserved i v)) k = false := by
  unfold ppsBit
  rw [memRead_memWrite m i _ _ hm]
  split
  · rename_i hi
    have hbit : 8 * i + (7 - (7 - k % 8)) = k := by omega
    rw [clearReserved_getLsbD i v (by omega), hbit, hk]
    simp
  · exact h k hk

/-- A byte write lists no index but its own. -/
theorem mem_memWrite {m : Memory} {i : Nat} {v : Byte} {p : Host.Cell} (h : p ∈ memWrite m i v) : p.1 = i ∨ p ∈ m := by
  unfold memWrite at h
  split at h
  · exact .inr (mem_storeErase h)
  · exact (mem_storeWrite h).imp_left fun hp => by rw [hp]

/-! ### Line buffers, cache and window -/

theorem lineBuf_empty_wf (c : Cpnt) : storeWf (LineBuf.empty.get c) := by simp [LineBuf.empty, storeWf]

/-- `LINE_END` copies into the line above in canonical form. -/
theorem ReducedLine.wf {s : State} (h : ∀ c, storeWf (s.prev.get c)) {b : LineBuf} (hb : ReducedLine s b) (c : Cpnt) :
    storeWf (b.get c) := by
  induction hb generalizing c with
  | start => exact h c
  | copy c' i _ _ ih => exact writeCell_wf ih c' i _ c

@[simp] theorem ichClear_length (l : List IchEntry) : (ichClear l).length = l.length := by simp [ichClear]

@[simp] theorem ichPartialClear_length (n : Nat) (l : List IchEntry) : (ichPartialClear n l).length = l.length := by
  simp [ichPartialClear]
  omega

theorem ichSlots_pos (s : State) : 1 ≤ ichSlots s := by
  unfold ichSlots
  split <;> decide

theorem ichSlots_le (s : State) : ichSlots s ≤ 32 := by
  unfold ichSlots
  split <;> decide

/-! ### The invariant -/

theorem StorageInv.frame {s t : State} (h : StorageInv s) (f : StorageFrame s t) : StorageInv t where
  image := f.mem ▸ h.image
  imageBound := f.mem ▸ h.imageBound
  reserved := f.mem ▸ h.reserved
  prev := f.prev ▸ h.prev
  cur := f.cur ▸ h.cur
  orig := f.orig ▸ h.orig
  ich := f.ich ▸ h.ich
  window := f.bp ▸ h.window

theorem StorageInv.enterFault {s : State} (h : StorageInv s) (r : Raise) : StorageInv (s.enterFault r) :=
  h.frame (enterFault_storageFrame s r)

theorem StorageInv.groupWrite {s t : State} (h : StorageInv s) (w : GroupWrite s t) : StorageInv t := by
  cases w with
  | pixel c i p deq => exact { h with cur := writeCell_wf h.cur c _ _ }
  | ichPixel i _ => exact { h with cur := writeCell_wf h.cur _ i _ }
  | cache pixel =>
    have hlen := h.ich
    have hslots := ichSlots_le s
    exact { h with ich := (ichInsert_length _ _ _ (ichSlots_pos s) (by omega)).trans hlen }
  | search found =>
    obtain ⟨new, edge, hnew, rfl⟩ := bpSearchGroup_eq_ok found
    refine { h with window := fun k => ?_ }
    cases k with
    | i0 => exact hnew
    | i1 => exact h.window .i0
    | i2 => exact h.window .i1
  | _ => exact { h with }

theorem StorageInv.groupWrites {s t : State} (h : StorageInv s) (w : GroupWrites s t) : StorageInv t := by
  induction w with
  | refl => exact h
  | tail _ hw ih => exact ih.groupWrite hw

theorem StorageInv.sliceBegun {s : State} (h : StorageInv s) (d : Bool) : StorageInv (s.sliceBegun d) where
  image := h.image
  imageBound := h.imageBound
  reserved := h.reserved
  prev := lineBuf_empty_wf
  cur := lineBuf_empty_wf
  orig := lineBuf_empty_wf
  ich := (ichClear_length _).trans h.ich
  window := fun k => by cases k <;> rfl

theorem StorageInv.lineStart {s : State} (h : StorageInv s) : StorageInv s.lineIch.openLine := by
  have hich : s.lineIch.ich.length = 32 := by
    unfold State.lineIch
    split
    · exact (ichPartialClear_length _ _).trans h.ich
    · exact h.ich
  have hframe : s.lineIch.openLine.mem = s.mem ∧ s.lineIch.openLine.prev = s.prev ∧ s.lineIch.openLine.orig = s.orig := by
    unfold State.openLine State.lineIch
    split <;> exact ⟨rfl, rfl, rfl⟩
  obtain ⟨hmem, hprev, horig⟩ := hframe
  exact
    { image := hmem ▸ h.image
      imageBound := hmem ▸ h.imageBound
      reserved := hmem ▸ h.reserved
      prev := hprev ▸ h.prev
      cur := lineBuf_empty_wf
      orig := horig ▸ h.orig
      ich := hich
      window := fun k => by cases k <;> rfl }

/-- Every effect keeps the form of the storage. -/
theorem StorageInv.effect {i : Instr} {s t : State} (h : StorageInv s) (e : Effect i s t) : StorageInv t := by
  cases e with
  | hold => exact h
  | fault _ _ r => exact h.enterFault r
  | result | checkPassed | cfgThresh => exact { h with }
  | cfgByte v _ image =>
    exact
      { h with
        image := memWrite_wf _ _ _ h.image
        imageBound := fun p hp => (mem_memWrite hp).elim (fun hi => by omega) (h.imageBound p)
        reserved := memWrite_reserved h.image h.reserved _ v }
  | checkFailed r | startRefused _ r =>
    refine StorageInv.enterFault ?_ r
    exact { h with }
  | sliceStart d => exact h.sliceBegun d
  | lineStart => exact h.lineStart
  | origWr i => exact { h with orig := writeCell_wf h.orig _ i _ }
  | lineEndCut r copied | lineEndUnfit r copied =>
    refine StorageInv.enterFault ?_ r
    exact { h with prev := copied.wf h.prev }
  | lineEnd _ _ copied => exact { h with prev := copied.wf h.prev, orig := lineBuf_empty_wf }
  | groupCut r _ writes => exact (h.groupWrites writes).enterFault r
  | groupUnfit _ r _ writes =>
    refine StorageInv.enterFault ?_ r
    exact { h.groupWrites writes with }
  | group _ _ _ writes => exact { h.groupWrites writes with }
  | rate writes => exact h.frame writes.storageFrame
  | rateCut r writes => exact (h.frame writes.storageFrame).enterFault r

/-- Settles O55: every effect of a command keeps the form of the storage. -/
theorem storageFormKept : Obligations.StorageFormKept := fun _ _ hs h =>
  step_keeps (fun _ _ _ hs => { hs with }) (fun _ _ _ hs e => hs.effect e) hs h

end Sys2Proof.Machine

namespace Sys2Proof.Machine

/-! ## The ranges of the samples -/

/-- Every sample of a line buffer fits its component (10_state.md R49). -/
def LineFits (s : State) (b : LineBuf) : Prop := ∀ c i v, storeRead (b.get c) i = some v → v.toNat ≤ s.maxval c

theorem lineFits_empty (s : State) : LineFits s LineBuf.empty := fun c i v h => by simp [LineBuf.empty] at h

theorem LineFits.writeCell {s : State} {b : LineBuf} (h : LineFits s b) {c : Cpnt} (i : Nat) {v : Sample}
    (hv : v.toNat ≤ s.maxval c) : LineFits s (writeCell b c i v) := fun c' i' w hw => by
  rw [storeRead_writeCell] at hw
  split at hw
  · rename_i hc
    cases hw
    exact hc.1 ▸ hv
  · exact h c' i' w hw

/-! ### Values that fit -/

/-- `width` stream bits are a value below `2^width`. -/
theorem ppsBits_lt (m : Memory) (first w : Nat) : ppsBits m first w < 2 ^ w := by
  induction w with
  | zero => simp [ppsBits]
  | succ w ih =>
    have hbit := Bool.toNat_lt (ppsBit m (first + w))
    rw [ppsBits, pow_succ]
    omega

/-- No component has more bits than the carrier of a sample (00_scope.md R16). -/
theorem depth_le (s : State) (c : Cpnt) : s.depth c ≤ 16 := by
  have hbpc : s.bpc < 2 ^ 4 := ppsBits_lt _ _ _
  have hchroma := Bool.toNat_lt (s.isChroma c)
  unfold State.depth
  omega

theorem maxval_lt (s : State) (c : Cpnt) : s.maxval c < 2 ^ 16 := by
  have hpow : 2 ^ s.depth c ≤ 2 ^ 16 := Nat.pow_le_pow_right (by decide) (depth_le s c)
  unfold State.maxval
  omega

/-- A value in range is what the carrier holds, and fits its component. -/
theorem sample_ofInt_le {s : State} {c : Cpnt} {v : Int} (low : 0 ≤ v) (high : v ≤ s.maxval c) :
    (BitVec.ofInt 16 v).toNat ≤ s.maxval c := by
  have hmax := maxval_lt s c
  rw [BitVec.toNat_ofInt]
  omega

/-- A reconstructed sample is clamped to its component's range (41_quantizer.md R240). -/
theorem reconSample_range (s : State) (c : Cpnt) (p deq : Int) :
    0 ≤ reconSample s c p deq ∧ reconSample s c p deq ≤ s.maxval c :=
  ⟨le_clampInt (by positivity), clampInt_le _ _ _⟩

/-- The reduction of a sample to the line-buffer depth stays in the component's range (45_sequencing.md R417). -/
theorem reduceSample_range (s : State) (c : Cpnt) {x : Int} (low : 0 ≤ x) (high : x ≤ s.maxval c) :
    0 ≤ reduceSample s c x ∧ reduceSample s c x ≤ s.maxval c := by
  unfold reduceSample
  dsimp only
  split
  · exact ⟨low, high⟩
  · set k := s.depth c - s.lbd c with hk
    have hkd : k ≤ s.depth c := Nat.sub_le _ _
    have hshr : 0 ≤ shr (x + 2 ^ (k - 1)) k := Int.ediv_nonneg (by positivity) (by positivity)
    have htop : (1 : Int) ≤ 2 ^ (s.depth c - k) := one_le_pow₀ (by decide)
    have hpow : (2 : Int) ^ (s.depth c - k) * 2 ^ k = 2 ^ s.depth c := by rw [← pow_add, Nat.sub_add_cancel hkd]
    have hk1 : (1 : Int) ≤ 2 ^ k := one_le_pow₀ (by decide)
    have hmax : (s.maxval c : Int) = 2 ^ s.depth c - 1 := by simp [State.maxval, Nat.one_le_two_pow]
    refine ⟨mul_nonneg (le_min hshr (by omega)) (by positivity), ?_⟩
    calc
      min (shr (x + 2 ^ (k - 1)) k) (2 ^ (s.depth c - k) - 1) * 2 ^ k ≤ (2 ^ (s.depth c - k) - 1) * 2 ^ k :=
        mul_le_mul_of_nonneg_right (min_le_right _ _) (by positivity)
      _ = 2 ^ s.depth c - 2 ^ k := by rw [sub_mul, hpow, one_mul]
      _ ≤ s.maxval c := by omega

theorem readCell_eq_ok {sp : UninitSpace} {b : LineBuf} {c : Cpnt} {i : Nat} {x : Int} (h : readCell sp b c i = .ok x) :
    ∃ v, storeRead (b.get c) i = some v ∧ x = (v.toNat : Int) := by
  cases hr : storeRead (b.get c) i with
  | none => rw [readCell_none hr] at h; cases h
  | some v => rw [readCell_some hr] at h; cases h; exact ⟨v, rfl, rfl⟩

/-- What `LINE_END` copies into the line above fits. -/
theorem ReducedLine.fits {s : State} (hprev : LineFits s s.prev) (hcur : LineFits s s.cur) {b : LineBuf}
    (hb : ReducedLine s b) : LineFits s b := by
  induction hb with
  | start => exact hprev
  | copy c i _ hx ih =>
    obtain ⟨low, high⟩ := reduceSample_range s c (Int.natCast_nonneg _) (Int.ofNat_le.2 (hcur c i _ hx))
    exact ih.writeCell i (sample_ofInt_le low high)

/-! ### The cache -/

/-- Every valid entry of a cache fits its components. -/
def CacheFits (s : State) (l : List IchEntry) : Prop := ∀ e ∈ l, e.valid = true → ∀ c, (e.v.get c).toNat ≤ s.maxval c

/-- The valid entries by number are the valid entries of the list. -/
theorem cacheFits_iff (s : State) :
    CacheFits s s.ich ↔ ∀ k c, (ichEntry s k).valid = true → ((ichEntry s k).v.get c).toNat ≤ s.maxval c := by
  constructor
  · intro h k c hv
    unfold ichEntry at hv ⊢
    rw [List.getD_eq_getElem?_getD] at hv ⊢
    cases hk : s.ich[k]? with
    | none => rw [hk] at hv; cases hv
    | some e =>
      rw [hk] at hv
      exact h e (List.mem_of_getElem? hk) hv c
  · intro h e he hv c
    obtain ⟨k, hk, rfl⟩ := List.mem_iff_getElem.1 he
    have hentry : ichEntry s k = s.ich[k] := by simp [ichEntry, List.getD_eq_getElem?_getD, hk]
    exact hentry ▸ h k c (hentry ▸ hv)

/-- A cleared cache has no valid entry. -/
theorem cacheFits_ichClear (s : State) (l : List IchEntry) : CacheFits s (ichClear l) := fun e he hv => by
  obtain ⟨e', -, rfl⟩ := List.mem_map.1 he
  cases hv

theorem CacheFits.partialClear {s : State} {l : List IchEntry} (h : CacheFits s l) (n : Nat) :
    CacheFits s (ichPartialClear n l) := fun e he hv => by
  rcases List.mem_append.1 he with he | he
  · exact cacheFits_ichClear s _ e he hv
  · exact h e (List.mem_of_mem_drop he) hv

/-- The cache update lists the new triple and old entries only (42_ich.md R272). -/
theorem CacheFits.insert {s : State} {l : List IchEntry} (h : CacheFits s l) (n : Nat) {p : Tri Sample}
    (hp : ∀ c, (p.get c).toNat ≤ s.maxval c) : CacheFits s (ichInsert n p l) := fun e he hv => by
  rcases List.mem_cons.1 he with rfl | he
  · exact hp
  · rcases List.mem_append.1 he with he | he
    · exact h e (List.mem_of_mem_take he) hv
    · exact h e (List.mem_of_mem_drop he) hv

/-! ### The invariant -/

theorem sampleRanges_of {s : State} (prev : LineFits s s.prev) (cur : LineFits s s.cur) (orig : LineFits s s.orig)
    (ich : CacheFits s s.ich) : SampleRanges s := ⟨prev, cur, orig, (cacheFits_iff s).1 ich⟩

/-- A value of the cache or of the line above it names fits (42_ich.md R262). -/
theorem SampleRanges.historyLookup {s : State} (h : SampleRanges s) {k : Nat} {c : Cpnt} {gs v : Int}
    (hv : historyLookup s k c gs = .ok v) : 0 ≤ v ∧ v ≤ s.maxval c := by
  unfold Machine.historyLookup at hv
  split at hv
  · unfold prevRead at hv
    split at hv
    · cases hv
    · obtain ⟨x, hx, rfl⟩ := readCell_eq_ok hv
      exact ⟨Int.natCast_nonneg _, Int.ofNat_le.2 (h.prev c _ x hx)⟩
  · split at hv
    · cases hv
      exact ⟨Int.natCast_nonneg _, Int.ofNat_le.2 (h.ich k c ‹_›)⟩
    · cases hv

theorem readTri_eq_ok {β : Type} {f : Idx3 → Rd β} {t : Tri β} (h : readTri f = .ok t) (i : Idx3) :
    f i = .ok (t.get i) := by
  obtain ⟨b0, h0, h⟩ := rd_bind_eq_ok.1 h
  obtain ⟨b1, h1, h⟩ := rd_bind_eq_ok.1 h
  obtain ⟨b2, h2, h⟩ := rd_bind_eq_ok.1 h
  cases h
  cases i <;> assumption

/-- The reconstructed triple that enters the cache fits. -/
theorem SampleRanges.curTriple {s : State} (h : SampleRanges s) {i : Nat} {p : Tri Sample} (hp : curTriple s i = .ok p)
    (c : Cpnt) : (p.get c).toNat ≤ s.maxval c := by
  obtain ⟨x, hx, hpc⟩ := rd_bind_eq_ok.1 (readTri_eq_ok hp c)
  obtain ⟨v, hv, rfl⟩ := readCell_eq_ok hx
  rw [← Except.ok.inj hpc]
  exact sample_ofInt_le (Int.natCast_nonneg _) (Int.ofNat_le.2 (h.cur c i v hv))

theorem SampleRanges.frame {s t : State} (h : SampleRanges s) (f : StorageFrame s t) : SampleRanges t := by
  have hmax (c : Cpnt) : t.maxval c = s.maxval c := by
    simp [State.maxval, State.depth, State.isChroma, State.cfgFlag, State.bpc, State.cfg, f.mem]
  constructor
  · simpa [hmax, f.prev] using h.prev
  · simpa [hmax, f.cur] using h.cur
  · simpa [hmax, f.orig] using h.orig
  · simpa [hmax, ichEntry, f.ich] using h.ich

theorem SampleRanges.groupWrite {s t : State} (h : SampleRanges s) (w : GroupWrite s t) : SampleRanges t := by
  cases w with
  | pixel c i p deq =>
    obtain ⟨low, high⟩ := reconSample_range s c p deq
    exact { h with cur := LineFits.writeCell h.cur i (sample_ofInt_le low high) }
  | ichPixel i lookup =>
    obtain ⟨low, high⟩ := h.historyLookup lookup
    exact { h with cur := LineFits.writeCell h.cur i (sample_ofInt_le low high) }
  | cache pixel =>
    have hich : CacheFits s s.ich := (cacheFits_iff s).2 h.ich
    exact sampleRanges_of h.prev h.cur h.orig (hich.insert _ (h.curTriple pixel))
  | _ => exact { h with }

theorem SampleRanges.groupWrites {s t : State} (h : SampleRanges s) (w : GroupWrites s t) : SampleRanges t := by
  induction w with
  | refl => exact h
  | tail _ hw ih => exact ih.groupWrite hw

theorem SampleRanges.lineStart {s : State} (h : SampleRanges s) : SampleRanges s.lineIch.openLine := by
  have hich : CacheFits s s.ich := (cacheFits_iff s).2 h.ich
  have hline : SampleRanges s.lineIch := by
    unfold State.lineIch
    split
    · exact sampleRanges_of h.prev h.cur h.orig (hich.partialClear _)
    · exact h
  exact sampleRanges_of hline.prev (lineFits_empty _) hline.orig ((cacheFits_iff _).2 hline.ich)

theorem sliceBegun_sampleRanges (s : State) (d : Bool) : SampleRanges (s.sliceBegun d) :=
  sampleRanges_of (lineFits_empty _) (lineFits_empty _) (lineFits_empty _) (cacheFits_ichClear _ _)

/-- A fault makes no slice active or done. -/
theorem SampleInv.enterFault {s : State} (h : SampleInv s) (r : Raise) : SampleInv (s.enterFault r) := fun hin =>
  (h (.inr (by simpa [State.inSlice] using hin))).frame (enterFault_storageFrame s r)

theorem SampleInv.groupWrites {s u : State} (h : SampleInv s) (w : GroupWrites s u) : SampleInv u := fun hin =>
  (h (by simpa only [State.inSlice, w.controlFrame.st] using hin)).groupWrites w

theorem SampleInv.rateWrites {s u : State} (h : SampleInv s) (w : RateWrites s u) : SampleInv u := fun hin =>
  (h (by simpa only [State.inSlice, w.controlFrame.st] using hin)).frame w.storageFrame

/-- A state whose configuration is unchecked has no slice to read. -/
theorem sampleInv_unchecked {s : State} (h : s.st.sliceActive = false) : SampleInv s.unchecked := fun hin => by
  simp [State.inSlice, State.unchecked, h] at hin

/-- Every effect keeps the samples in range. -/
theorem SampleInv.effect {i : Instr} {s t : State} (h : SampleInv s) (e : Effect i s t) : SampleInv t := by
  cases e with
  | hold => exact h
  | fault _ _ r => exact h.enterFault r
  | result | checkPassed => exact fun hin => (h hin).frame ⟨rfl, rfl, rfl, rfl, rfl, rfl⟩
  | cfgByte _ free | cfgThresh _ _ free => exact sampleInv_unchecked free
  | checkFailed r | startRefused _ r =>
    refine SampleInv.enterFault ?_ r
    exact fun hin => (h hin).frame ⟨rfl, rfl, rfl, rfl, rfl, rfl⟩
  | sliceStart d => exact fun _ => sliceBegun_sampleRanges s d
  | lineStart active => exact fun _ => (h (.inl active)).lineStart
  | origWr i low high =>
    exact fun hin => { h hin with orig := LineFits.writeCell (h hin).orig i (sample_ofInt_le low high) }
  | lineEndCut r copied | lineEndUnfit r copied =>
    refine SampleInv.enterFault ?_ r
    exact fun hin => { h hin with prev := copied.fits (h hin).prev (h hin).cur }
  | lineEnd active _ copied =>
    have hs := h (.inl active)
    exact fun _ => { hs with prev := copied.fits hs.prev hs.cur, orig := lineFits_empty _ }
  | groupCut r _ writes => exact (h.groupWrites writes).enterFault r
  | groupUnfit _ r _ writes =>
    refine SampleInv.enterFault ?_ r
    exact fun hin => { h.groupWrites writes hin with }
  | group _ _ _ writes => exact fun hin => { h.groupWrites writes hin with }
  | rate writes => exact h.rateWrites writes
  | rateCut r writes => exact (h.rateWrites writes).enterFault r

/-- Settles O58: every effect of a command keeps the samples of an active or finished slice in range. -/
theorem sampleRangesKept : Obligations.SampleRangesKept := fun _ _ hs h =>
  step_keeps (fun _ _ _ hs hin => { hs hin with }) (fun _ _ _ hs e => hs.effect e) hs h

end Sys2Proof.Machine

namespace Sys2Proof.Machine

/-! ## The agreement of status, mode, position and counts -/

theorem ng_of_mem {s t : State} (h : t.mem = s.mem) : t.ng = s.ng := by simp [State.ng, State.width, State.cfg, h]

theorem width_of_mem {s t : State} (h : t.mem = s.mem) : t.width = s.width := by simp [State.width, State.cfg, h]

theorem height_of_mem {s t : State} (h : t.mem = s.mem) : t.height = s.height := by simp [State.height, State.cfg, h]

/-- NG of a legal configuration fits the 12-bit registers that hold it (10_state.md R36). -/
theorem ng_toNat {s : State} (h : LegalConfig s) : (BitVec.ofNat 12 s.ng).toNat = s.ng := by
  have hwidth : s.width ≤ 8192 := h.sliceWidth.2
  have hng : s.ng = (s.width + 2) / 3 := rfl
  rw [BitVec.toNat_ofNat]
  omega

/-- The part of the agreement that does not speak of an active slice: all of it that a fault has to keep. -/
structure IdleAgreement (s : State) : Prop where
  validLegal : s.st.cfgValid = true → LegalConfig s
  doneValid : s.st.sliceDone = true → s.st.cfgValid = true
  doneState : s.st.sliceDone = true → s.st.stateValid = true
  doneAtEnd : s.st.sliceDone = true → s.vPos = s.height
  faultRecorded : s.st.faulted = s.st.faultCode.isSome
  checkedGroups : s.st.cfgValid = true → s.ngChecked.toNat = s.ng

theorem ControlInv.idle {s : State} (h : ControlInv s) : IdleAgreement s := { h with }

theorem IdleAgreement.frame {s t : State} (h : IdleAgreement s) (mem : t.mem = s.mem) (st : t.st = s.st)
    (vPos : t.pos.vPos = s.pos.vPos) (ngChecked : t.ngChecked = s.ngChecked) : IdleAgreement t where
  validLegal hv := (h.validLegal (st ▸ hv)).of_mem mem
  doneValid := st ▸ h.doneValid
  doneState := st ▸ h.doneState
  doneAtEnd hd := by
    rw [State.vPos, vPos, height_of_mem mem]
    exact h.doneAtEnd (st ▸ hd)
  faultRecorded := st ▸ h.faultRecorded
  checkedGroups hv := by
    rw [ngChecked, ng_of_mem mem]
    exact h.checkedGroups (st ▸ hv)

/-- Without an active slice, an open line or a pending group the idle part is all of the agreement. -/
theorem IdleAgreement.control {s : State} (h : IdleAgreement s) (free : s.st.sliceActive = false)
    (line : s.mode.lineOpen = false) (pending : s.mode.groupPending = false) : ControlInv s :=
  { h with
    activeValid := fun ha => by simp [free] at ha
    activeState := fun ha => by simp [free] at ha
    activeRuns := fun ha => by simp [free] at ha
    activeNotDone := fun ha => by simp [free] at ha
    lineActive := fun hl => by simp [line] at hl
    pendingLine := fun hp => by simp [pending] at hp
    lineInside := fun ha => by simp [free] at ha
    groupAligned := fun ha => by simp [free] at ha
    lineBound := fun ha => by simp [free] at ha
    supergroup := fun hl => by simp [line] at hl
    sliceGroups := fun ha => by simp [free] at ha }

/-- Without an active slice no line is open and no group is pending. -/
theorem ControlInv.closed {s : State} (h : ControlInv s) (free : s.st.sliceActive = false) :
    s.mode.lineOpen = false ∧ s.mode.groupPending = false := by
  have hline : s.mode.lineOpen = false := Bool.eq_false_iff.2 fun hl => by simp [h.lineActive hl] at free
  exact ⟨hline, Bool.eq_false_iff.2 fun hp => by simp [h.pendingLine hp] at hline⟩

/-- A fault ends the slice, the line and the pending group, so only the idle part has to hold before it. -/
theorem IdleAgreement.enterFault {s : State} (h : IdleAgreement s) (r : Raise) : ControlInv (s.enterFault r) := by
  have hidle : IdleAgreement (s.enterFault r) :=
    { validLegal := fun hv => (h.validLegal (by simpa using hv)).of_mem (enterFault_mem s r)
      doneValid := by simpa using h.doneValid
      doneState := by simpa using h.doneState
      doneAtEnd := by simpa [State.vPos, height_of_mem (enterFault_mem s r)] using h.doneAtEnd
      faultRecorded := by
        rw [enterFault_st]
        split
        · exact h.faultRecorded
        · rfl
      checkedGroups := by simpa [ng_of_mem (enterFault_mem s r)] using h.checkedGroups }
  exact hidle.control (by simp) (by simp) (by simp)

theorem ControlInv.frame {s t : State} (h : ControlInv s) (f : ControlFrame s t) : ControlInv t where
  validLegal hv := (h.validLegal (f.st ▸ hv)).of_mem f.mem
  activeValid := f.st ▸ h.activeValid
  activeState := f.st ▸ h.activeState
  activeRuns := f.st ▸ h.activeRuns
  activeNotDone := f.st ▸ h.activeNotDone
  doneValid := f.st ▸ h.doneValid
  doneState := f.st ▸ h.doneState
  doneAtEnd := (h.idle.frame f.mem f.st f.vPos f.ngChecked).doneAtEnd
  lineActive hl := f.st ▸ h.lineActive (f.lineOpen ▸ hl)
  pendingLine hp := f.lineOpen ▸ h.pendingLine (f.pending hp)
  faultRecorded := f.st ▸ h.faultRecorded
  lineInside ha := by
    rw [State.vPos, f.vPos, height_of_mem f.mem]
    exact h.lineInside (f.st ▸ ha)
  groupAligned ha := by
    rw [State.hPos, f.hPos, f.groupInLine]
    exact h.groupAligned (f.st ▸ ha)
  lineBound ha := by
    rw [State.hPos, f.hPos, width_of_mem f.mem]
    exact h.lineBound (f.st ▸ ha)
  supergroup hl := by
    rw [f.sgPos, f.groupInLine]
    exact h.supergroup (f.lineOpen ▸ hl)
  checkedGroups := (h.idle.frame f.mem f.st f.vPos f.ngChecked).checkedGroups
  sliceGroups ha := by
    rw [f.ngSlice, ng_of_mem f.mem]
    exact h.sliceGroups (f.st ▸ ha)

/-! ### The commands that write control -/

/-- A byte or a threshold that `CFG_WR` has written to `u` leaves no configuration checked and no slice. -/
theorem ControlInv.unchecked {s u : State} (h : ControlInv s) (free : s.st.sliceActive = false) (st : u.st = s.st)
    (mode : u.mode = s.mode) : ControlInv u.unchecked := by
  obtain ⟨line, pending⟩ := h.closed free
  have hidle : IdleAgreement u.unchecked :=
    { validLegal := fun hv => by cases hv
      doneValid := fun hd => by cases hd
      doneState := fun hd => by cases hd
      doneAtEnd := fun hd => by cases hd
      faultRecorded := by simpa [State.unchecked, st] using h.faultRecorded
      checkedGroups := fun hv => by cases hv }
  exact hidle.control (by simpa [State.unchecked, st]) (by simpa [State.unchecked, mode])
    (by simpa [State.unchecked, mode])

theorem ControlInv.checkPassed {s : State} (h : ControlInv s) (free : s.st.sliceActive = false) (legal : LegalConfig s) :
    ControlInv s.checkPassed := by
  obtain ⟨line, pending⟩ := h.closed free
  have hidle : IdleAgreement s.checkPassed :=
    { validLegal := fun _ => legal.of_mem rfl
      doneValid := fun _ => rfl
      doneState := h.doneState
      doneAtEnd := h.doneAtEnd
      faultRecorded := h.faultRecorded
      checkedGroups := fun _ => ng_toNat legal }
  exact hidle.control free line pending

/-- A failing `CFG_CHECK` finds no slice done, since a done slice has a legal configuration. -/
theorem ControlInv.checkFailed {s : State} (h : ControlInv s) (illegal : ¬ LegalConfig s) :
    IdleAgreement s.checkFailed where
  validLegal hv := by cases hv
  doneValid hd := absurd (h.validLegal (h.doneValid hd)) illegal
  doneState := h.doneState
  doneAtEnd := h.doneAtEnd
  faultRecorded := h.faultRecorded
  checkedGroups hv := by cases hv

theorem ControlInv.leaveFault {s : State} (h : ControlInv s) : IdleAgreement s.leaveFault where
  validLegal hv := (h.validLegal hv).of_mem rfl
  doneValid := h.doneValid
  doneState := h.doneState
  doneAtEnd := h.doneAtEnd
  faultRecorded := rfl
  checkedGroups := h.checkedGroups

theorem ControlInv.sliceBegun {s : State} (h : ControlInv s) (valid : s.st.cfgValid = true) (d : Bool) :
    ControlInv (s.sliceBegun d) where
  validLegal _ := (h.validLegal valid).of_mem rfl
  activeValid _ := valid
  activeState _ := rfl
  activeRuns _ := rfl
  activeNotDone _ := rfl
  doneValid hd := by cases hd
  doneState hd := by cases hd
  doneAtEnd hd := by cases hd
  lineActive _ := rfl
  pendingLine hp := by cases hp
  faultRecorded := rfl
  lineInside _ := (h.validLegal valid).sliceHeight
  groupAligned _ := rfl
  lineBound _ := Nat.zero_le _
  supergroup hl := by cases hl
  checkedGroups _ := h.checkedGroups valid
  sliceGroups _ := ng_toNat (s := s) (h.validLegal valid)

theorem lineIch_controlFrame (s : State) : ControlFrame s s.lineIch := by
  unfold State.lineIch
  split
  · exact { ControlFrame.refl s with }
  · exact .refl s

theorem ControlInv.lineStart {s : State} (h : ControlInv s) (active : s.st.sliceActive = true) :
    ControlInv s.lineIch.openLine := by
  have hf := lineIch_controlFrame s
  have hi := h.frame hf
  exact
    { hi with
      validLegal := fun hv => (hi.validLegal hv).of_mem rfl
      lineActive := fun _ => hf.st ▸ active
      pendingLine := fun _ => rfl
      groupAligned := fun _ => rfl
      lineBound := fun _ => Nat.zero_le _
      supergroup := fun _ => rfl }

/-- `LINE_END` ends the slice with its last line, and else leaves a line to code. -/
theorem ControlInv.lineEnd {s : State} (h : ControlInv s) (active : s.st.sliceActive = true)
    (rated : s.mode.groupPending = false) (b : LineBuf) {v : BitVec 16} (next : v.toNat = s.vPos + 1) :
    ControlInv ((s.withPrev b).lineBp.closeLine v) := by
  have inside := h.lineInside active
  have legal : LegalConfig ((s.withPrev b).lineBp.closeLine v) := (h.validLegal (h.activeValid active)).of_mem rfl
  have hst : ((s.withPrev b).lineBp.closeLine v).st =
      if v.toNat = s.height then { s.st with sliceDone := true, sliceActive := false } else s.st := rfl
  by_cases last : v.toNat = s.height
  · rw [if_pos last] at hst
    have hidle : IdleAgreement ((s.withPrev b).lineBp.closeLine v) :=
      { validLegal := fun _ => legal
        doneValid := fun _ => by rw [hst]; exact h.activeValid active
        doneState := fun _ => by rw [hst]; exact h.activeState active
        doneAtEnd := fun _ => last
        faultRecorded := by rw [hst]; exact h.faultRecorded
        checkedGroups := fun _ => h.checkedGroups (h.activeValid active) }
    exact hidle.control (by rw [hst]) rfl rated
  · rw [if_neg last] at hst
    exact
      { validLegal := fun _ => legal
        activeValid := hst ▸ h.activeValid
        activeState := hst ▸ h.activeState
        activeRuns := hst ▸ h.activeRuns
        activeNotDone := hst ▸ h.activeNotDone
        doneValid := hst ▸ h.doneValid
        doneState := hst ▸ h.doneState
        doneAtEnd := fun hd => by rw [hst, h.activeNotDone active] at hd; cases hd
        lineActive := fun hl => by cases hl
        pendingLine := fun hp => absurd (rated ▸ hp) Bool.false_ne_true
        faultRecorded := hst ▸ h.faultRecorded
        lineInside := fun _ => (by omega : v.toNat < s.height)
        groupAligned := fun _ => rfl
        lineBound := fun _ => Nat.zero_le _
        supergroup := fun hl => by cases hl
        checkedGroups := hst ▸ h.checkedGroups
        sliceGroups := hst ▸ h.sliceGroups }

/-- The bookkeeping of a group keeps the position a whole number of groups, the supergroup position with it. -/
theorem ControlInv.group {s : State} (h : ControlInv s) (ready : LineActive s) (inside : s.hPos < s.width) (count : Word)
    {p g : BitVec 16} (next : p.toNat = s.hPos + 3) (nextGroup : g.toNat = s.pos.groupInLine.toNat + 1) :
    ControlInv (s.groupAdvanced count p g) := by
  have aligned := h.groupAligned ready.active
  have hsg : (s.flat.sgPos + 1).toNat = g.toNat % 4 := by
    have := h.supergroup ready.line
    rw [BitVec.toNat_add]
    have hone : (1 : BitVec 2).toNat = 1 := rfl
    omega
  exact
    { h with
      validLegal := fun hv => (h.validLegal hv).of_mem rfl
      pendingLine := fun _ => ready.line
      groupAligned := fun _ => (by omega : p.toNat = 3 * g.toNat)
      lineBound := fun _ => (by omega : p.toNat ≤ s.width + 2)
      supergroup := fun _ => hsg }

/-- Every effect keeps the agreement. -/
theorem ControlInv.effect {i : Instr} {s t : State} (h : ControlInv s) (e : Effect i s t) : ControlInv t := by
  cases e with
  | hold => exact h
  | fault _ _ r => exact h.idle.enterFault r
  | result | origWr => exact h.frame { ControlFrame.refl s with }
  | cfgByte _ free | cfgThresh _ _ free => exact h.unchecked free rfl rfl
  | checkPassed free legal => exact h.checkPassed free legal
  | checkFailed r _ illegal => exact (h.checkFailed illegal).enterFault r
  | startRefused _ r => exact h.leaveFault.enterFault r
  | sliceStart d _ valid => exact h.sliceBegun valid d
  | lineStart active => exact h.lineStart active
  | lineEndCut r | lineEndUnfit r =>
    refine IdleAgreement.enterFault ?_ r
    exact h.idle.frame rfl rfl rfl rfl
  | lineEnd active rated _ next => exact h.lineEnd active rated _ next
  | groupCut r _ writes => exact (h.frame writes.controlFrame).idle.enterFault r
  | groupUnfit _ r _ writes sameLine =>
    refine IdleAgreement.enterFault ?_ r
    exact (h.frame writes.controlFrame).idle.frame rfl rfl sameLine rfl
  | group count v _ writes ready inside next nextGroup =>
    have hf := writes.controlFrame
    have hadvanced := (h.frame hf).group ⟨hf.st ▸ ready.active, hf.lineOpen ▸ ready.line⟩
      (by rwa [State.hPos, hf.hPos, width_of_mem hf.mem]) count (by rwa [State.hPos, hf.hPos]) nextGroup
    exact hadvanced.frame { ControlFrame.refl _ with }
  | rate writes => exact h.frame writes.controlFrame
  | rateCut r writes => exact (h.frame writes.controlFrame).idle.enterFault r

/-- Settles O56: every effect of a command keeps the agreement of status, mode, position and counts. -/
theorem controlAgreementKept : Obligations.ControlAgreementKept := fun _ _ hs h =>
  step_keeps (fun _ _ _ hs => { hs with validLegal := fun hv => (hs.validLegal hv).of_mem rfl })
    (fun _ _ _ hs e => hs.effect e) hs h

end Sys2Proof.Machine

namespace Sys2Proof.Machine

/-! ## The byte order of the PPS image -/

/-- A run of stream bits is its first bits, then its last. -/
theorem ppsBits_add (m : Memory) (first u w : Nat) :
    ppsBits m first (u + w) = ppsBits m first u * 2 ^ w + ppsBits m (first + u) w := by
  induction w with
  | zero => simp [ppsBits]
  | succ w ih =>
    rw [← Nat.add_assoc, ppsBits, ih, ppsBits, Nat.add_assoc first, pow_succ]
    ring

/-- Stream bits inside byte a are that byte's bits from the top (30_encoding.md R140). -/
theorem ppsBits_inByte (m : Memory) (a j w : Nat) (h : j + w ≤ 8) :
    ppsBits m (8 * a + j) w = (memRead m a).toNat / 2 ^ (8 - (j + w)) % 2 ^ w := by
  induction w with
  | zero => simp [ppsBits, Nat.mod_one]
  | succ w ih =>
    have hbyte : (8 * a + j + w) / 8 = a := by omega
    have hbit : 7 - (8 * a + j + w) % 8 = 8 - (j + (w + 1)) := by omega
    have hshift : 8 - (j + w) = 8 - (j + (w + 1)) + 1 := by omega
    rw [ppsBits, ih (by omega), ppsBit, hbyte, hbit, hshift, BitVec.getLsbD, Nat.toNat_testBit, pow_succ' 2 w,
      Nat.mod_mul, pow_succ, ← Nat.div_div_eq_div_mul, Nat.add_comm]

/-- A field that ends with byte a + 1 and starts in byte a has its high bits in byte a (20_memory.md R105). -/
theorem ppsBits_bigEndian (m : Memory) (a : Nat) {w : Nat} (h : w ≤ 8) :
    ppsBits m (8 * a + (8 - w)) (w + 8) = 256 * ((memRead m a).toNat % 2 ^ w) + (memRead m (a + 1)).toNat := by
  have hnext : 8 * a + (8 - w) + w = 8 * (a + 1) + 0 := by omega
  have hall : 8 - (8 - w + w) = 0 := by omega
  rw [ppsBits_add, hnext, ppsBits_inByte m a _ w (by omega), ppsBits_inByte m (a + 1) 0 8 (by omega), hall, pow_zero,
    Nat.div_one, Nat.div_one, Nat.mod_eq_of_lt (memRead m (a + 1)).isLt, mul_comm,
    show 2 ^ 8 = 256 from rfl]

/-- A 16-bit field at byte a. -/
theorem ppsBits_word (m : Memory) (a : Nat) :
    ppsBits m (8 * a) 16 = 256 * (memRead m a).toNat + (memRead m (a + 1)).toNat := by
  have hlt := (memRead m a).isLt
  simpa [Nat.mod_eq_of_lt hlt] using ppsBits_bigEndian m a (w := 8) le_rfl

/-- An 8-bit field at byte a. -/
theorem ppsBits_byte (m : Memory) (a : Nat) : ppsBits m (8 * a) 8 = (memRead m a).toNat := by
  have hlt := (memRead m a).isLt
  simpa [Nat.mod_eq_of_lt hlt] using ppsBits_inByte m a 0 8 (by omega)

/-- The three fields of a range are one 16-bit word (30_encoding.md R141). -/
theorem cfgOf_rangeWord (m : Memory) (j : Nat) :
    cfgOf m (.rangeMinQp j) * 2048 + cfgOf m (.rangeMaxQp j) * 64 + cfgOf m (.rangeBpgOffset j) =
      ppsBits m (8 * (58 + 2 * j)) 16 := by
  have hfirst : 464 + 16 * j = 8 * (58 + 2 * j) := by omega
  have hmax : 8 * (58 + 2 * j) + 5 = 469 + 16 * j := by omega
  have hoffset : 8 * (58 + 2 * j) + (5 + 5) = 474 + 16 * j := by omega
  have hsplit : ppsBits m (8 * (58 + 2 * j)) 16 = _ := ppsBits_add m (8 * (58 + 2 * j)) (5 + 5) 6
  rw [ppsBits_add m _ 5 5, hmax, hoffset] at hsplit
  simp only [cfgOf, PpsField.first, PpsField.width, hfirst]
  omega

/-- Settles O14: every field named ends on a byte boundary, so its high bits are those of the lower-numbered byte. -/
theorem ppsFieldsAreBigEndian : Obligations.PpsFieldsAreBigEndian := by
  intro m
  refine ⟨ppsBits_word m 6, ppsBits_word m 8, ppsBits_word m 10, ppsBits_word m 12, ppsBits_word m 14,
    ppsBits_word m 38, ppsBits_bigEndian m 4 (w := 2) (by omega), ppsBits_bigEndian m 16 (w := 2) (by omega),
    ppsBits_word m 18, ppsBits_word m 22, ppsBits_bigEndian m 24 (w := 4) (by omega), ppsBits_word m 28,
    ppsBits_word m 30, ppsBits_word m 32, ppsBits_word m 34, fun i _ => ?_, fun j _ => ?_⟩
  · have hfirst : 352 + 8 * i = 8 * (44 + i) := by omega
    rw [cfgOf, PpsField.first, hfirst]
    exact ppsBits_byte m (44 + i)
  · have hlow : 58 + 2 * j + 1 = 59 + 2 * j := by omega
    rw [cfgOf_rangeWord, ppsBits_word, hlow]

/-! ## The padded reads of the line buffers -/

/-- What a read of an element answers, if it does. -/
theorem readCell_toOption (sp : UninitSpace) (b : LineBuf) (c : Cpnt) (i : Nat) :
    (readCell sp b c i).toOption = (storeRead (b.get c) i).map (fun v => (v.toNat : Int)) := by
  cases h : storeRead (b.get c) i with
  | none => rw [readCell_none h]; rfl
  | some v => rw [readCell_some h]; rfl

/-- The only raise of a read is `F_UNINIT` (20_memory.md R102). -/
theorem readCell_error_kind {sp : UninitSpace} {b : LineBuf} {c : Cpnt} {i : Nat} {r : Raise}
    (h : readCell sp b c i = .error r) : r.kind = .uninit := by
  cases hs : storeRead (b.get c) i with
  | none => rw [readCell_none hs] at h; cases h; rfl
  | some v => rw [readCell_some hs] at h; cases h

theorem clampIndex_eq (s : State) (i : Int) : clampIndex s i = edgeIndex s.width i := rfl

theorem prevRead_line0 {s : State} (h : s.vPos = 0) (c : Cpnt) (i : Int) :
    prevRead s c i = .error (uninitAt .prev c.toNat (edgeIndex s.width i)) := by simp [prevRead, h, clampIndex_eq]

theorem prevRead_below {s : State} (h : 1 ≤ s.vPos) (c : Cpnt) (i : Int) :
    prevRead s c i = readCell .prev s.prev c (edgeIndex s.width i) := by
  simp [prevRead, clampIndex_eq, Nat.one_le_iff_ne_zero.1 h]

theorem curRead_inside {s : State} (c : Cpnt) {i : Int} (h : 0 ≤ i) : curRead s c i = readCell .cur s.cur c i.toNat := by
  simp [curRead, Int.not_lt.2 h]

theorem curRead_left_line0 {s : State} (h : s.vPos = 0) (c : Cpnt) {i : Int} (hi : i < 0) :
    curRead s c i = .ok (2 ^ (s.depth c - 1)) := by simp [curRead, leftPad, h, hi]

theorem curRead_left_below {s : State} (h : 1 ≤ s.vPos) (c : Cpnt) {i : Int} (hi : i < 0) :
    curRead s c i = prevRead s c 0 := by simp [curRead, leftPad, hi, Nat.one_le_iff_ne_zero.1 h]

theorem origRead_eq (s : State) (c : Cpnt) (i : Int) :
    origRead s c i = readCell .orig s.orig c (edgeIndex s.width i) := by
  have hindex : (if i < 0 then 0 else min i.toNat (s.width - 1)) = edgeIndex s.width i := by
    unfold edgeIndex
    split <;> omega
  rw [origRead, hindex]

theorem prevRead_error_kind {s : State} {c : Cpnt} {i : Int} {r : Raise} (h : prevRead s c i = .error r) :
    r.kind = .uninit := by
  rcases Nat.eq_zero_or_pos s.vPos with h0 | h1
  · rw [prevRead_line0 h0] at h
    cases h
    rfl
  · rw [prevRead_below h1] at h
    exact readCell_error_kind h

theorem curRead_error_kind {s : State} {c : Cpnt} {i : Int} {r : Raise} (h : curRead s c i = .error r) :
    r.kind = .uninit := by
  rcases Int.lt_or_le i 0 with hi | hi
  · rcases Nat.eq_zero_or_pos s.vPos with h0 | h1
    · rw [curRead_left_line0 h0 c hi] at h
      cases h
    · rw [curRead_left_below h1 c hi] at h
      exact prevRead_error_kind h
  · rw [curRead_inside c hi] at h
    exact readCell_error_kind h

/-- Settles O26: each padded read is a read of the element that replication names, or the middle of the range. -/
theorem lineBufferPadding : Obligations.LineBufferPadding := by
  intro s c i hw
  dsimp only
  have h0 : edgeIndex s.width 0 = 0 := by
    unfold edgeIndex
    omega
  refine ⟨fun h => ?_, fun h => ⟨_, prevRead_line0 h c i⟩, fun h => ?_, fun hi h => curRead_left_line0 h c hi,
    fun hi h => ?_, ?_, fun r h => ?_⟩
  · rw [prevRead_below h, readCell_toOption]
  · rw [curRead_inside c h, readCell_toOption]
  · rw [curRead_left_below h c hi, prevRead_below h, h0, readCell_toOption]
  · rw [origRead_eq, readCell_toOption]
  · rcases h with h | h | h
    · exact curRead_error_kind h
    · exact readCell_error_kind (origRead_eq s c i ▸ h)
    · exact prevRead_error_kind h

end Sys2Proof.Machine

namespace Sys2Proof.Machine

/-! ## What `REG_RD` shows -/

/-- The fault state written out field by field is the one fault entry leaves (60_exceptions.md R443). -/
theorem enterFault_raising (s : State) (k : FaultKind) (info : Int) :
    s.enterFault (raising k info) = s.afterFault k info := by
  unfold State.enterFault State.recordFault State.afterFault
  split <;> rfl

/-- `REG_RD` of an index that reads `w` returns it, written as any integer of the same 32 bits. -/
theorem exec_regRd_ok {s : State} {idx : Nat} {w : Word} {v : Int} (h : regRead s idx = .ok w)
    (hv : BitVec.ofInt 32 v = w) : exec (.regRd idx) s = .next (s.withResult v) := by
  have hrun : exec (.regRd idx) s = .next (s.setRes w.toInt) :=
    complete_ok ((act_bind_ok (act_sense_ok h)).trans (act_writeRes _ s))
  rw [hrun, State.withResult, State.setRes, BitVec.ofInt_toInt, hv]
  rfl

theorem exec_regRd_error {s : State} {idx : Nat} {k : FaultKind} {info : Int}
    (h : regRead s idx = .error (raising k info)) : exec (.regRd idx) s = .next (s.afterFault k info) := by
  rw [← enterFault_raising]
  exact complete_error (act_bind_error (act_sense_error h))

@[simp] theorem ofInt_toNat_eq_zext {w : Nat} (v : BitVec w) : BitVec.ofInt 32 (v.toNat : Int) = zext v := by
  rw [BitVec.ofInt_natCast, BitVec.ofNat_toNat]
  rfl

/-! ### `STATUS` -/

/-- Bit i of a word given by its number. -/
theorem getLsbD_ofNat_of_div {n i : Nat} {b : Bool} (hi : i < 32) (h : n / 2 ^ i % 2 = b.toNat) :
    (BitVec.ofNat 32 n).getLsbD i = b := by
  rw [BitVec.getLsbD_ofNat, Nat.testBit_eq_decide_div_mod_eq, h]
  cases b <;> simp [hi]

theorem faultCodeOf_lt (k : FaultKind) : faultCodeOf k < 16 := by cases k <;> decide

theorem status_code_eq (t : Status) : t.code = (t.faultCode.map faultCodeOf).getD 0 := by
  unfold Status.code
  cases t.faultCode <;> rfl

theorem status_code_lt (t : Status) : t.code < 16 := by
  unfold Status.code
  split
  · decide
  · exact faultCodeOf_lt _

/-- The fields of `STATUS` (10_state.md R38). -/
theorem status_word_fields (t : Status) :
    t.word.getLsbD 0 = t.faulted ∧ t.word.getLsbD 1 = t.cfgValid ∧ t.word.getLsbD 2 = t.sliceActive ∧
      t.word.getLsbD 3 = t.isEncoder ∧ t.word.getLsbD 4 = t.sliceDone ∧ t.word.getLsbD 5 = t.stateValid ∧
      t.word.toNat / 64 % 4 = 0 ∧ t.word.toNat / 256 = t.code := by
  have h0 := Bool.toNat_lt t.faulted
  have h1 := Bool.toNat_lt t.cfgValid
  have h2 := Bool.toNat_lt t.sliceActive
  have h3 := Bool.toNat_lt t.isEncoder
  have h4 := Bool.toNat_lt t.sliceDone
  have h5 := Bool.toNat_lt t.stateValid
  have hcode := status_code_lt t
  unfold Status.word
  have bit (i : Nat) (hi : i < 32) {n : Nat} {b : Bool} (h : n / 2 ^ i % 2 = b.toNat) := getLsbD_ofNat_of_div hi h
  exact ⟨bit 0 (by decide) (by omega), bit 1 (by decide) (by omega), bit 2 (by decide) (by omega),
    bit 3 (by decide) (by omega), bit 4 (by decide) (by omega), bit 5 (by decide) (by omega),
    by rw [BitVec.toNat_ofNat]; omega, by rw [BitVec.toNat_ofNat]; omega⟩

/-! ### The index map of the codec state -/

/-- The indices of the codec registers are those of 10_state.md R40 to R48: the runs of `codecRanges` below the ICH
store. -/
theorem codecRegs_indices (s : State) :
    (codecRegs s).map Prod.fst =
      (codecRanges.take 10).flatMap (fun r => List.range' r.1 (r.2 + 1 - r.1)) := rfl

/-- An index is that of a codec register exactly when a run below the ICH store holds it. -/
theorem mem_codecRegs_indices (s : State) (idx : Nat) :
    idx ∈ (codecRegs s).map Prod.fst ↔ ∃ r ∈ codecRanges.take 10, r.1 ≤ idx ∧ idx ≤ r.2 := by
  rw [codecRegs_indices, List.mem_flatMap]
  refine exists_congr fun r => and_congr_right fun hr => ?_
  have hle : ∀ r ∈ codecRanges.take 10, r.1 ≤ r.2 := by decide
  have := hle r hr
  rw [List.mem_range'_1]
  omega

/-- Each index names one codec register. -/
theorem codecRegs_wf (s : State) : storeWf (codecRegs s) := by
  have hrise : (codecRanges.take 10).Pairwise (fun r q => r.2 < q.1) := by decide
  unfold storeWf
  rw [codecRegs_indices, List.pairwise_flatMap]
  refine ⟨fun r _ => List.pairwise_lt_range', hrise.imp fun {r q} hrq i hi j hj => ?_⟩
  rw [List.mem_range'_1] at hi hj
  omega

/-- The codec state has a word at each of its indices. -/
theorem codecWord_mapped (s : State) {r : Nat × Nat} (hr : r ∈ codecRanges) {idx : Nat} (low : r.1 ≤ idx)
    (high : idx ≤ r.2) : ∃ w, codecWord s idx = some w := by
  have hcases : ∀ r ∈ codecRanges, r ∈ codecRanges.take 10 ∧ r.2 < 0x1000 ∨ r = (0x1000, 0x107F) := by decide
  rcases hcases r hr with ⟨hregs, hlt⟩ | rfl
  · obtain ⟨p, hp, rfl⟩ := List.mem_map.1 ((mem_codecRegs_indices s idx).2 ⟨r, hregs, low, high⟩)
    rw [codecWord, if_pos (by omega)]
    exact ⟨p.2, storeRead_of_mem (codecRegs_wf s) hp⟩
  · simp only at low high
    rw [codecWord, if_neg (by omega), if_pos (by omega)]
    exact ⟨_, rfl⟩

/-- The codec state has no word at an unmapped index. -/
theorem codecWord_unmapped (s : State) {r : Nat × Nat} (hr : r ∈ unmappedRanges) {idx : Nat} (low : r.1 ≤ idx)
    (high : idx ≤ r.2) : codecWord s idx = none := by
  have hcases : ∀ r ∈ unmappedRanges, r.2 < 0x1000 ∨ 0x1080 ≤ r.1 ∧ r.2 < 0x8000 := by decide
  rcases hcases r hr with hlt | ⟨hge, hlt⟩
  · rw [codecWord, if_pos (by omega)]
    refine storeRead_eq_none fun p hp hidx => ?_
    obtain ⟨q, hq, hlow, hhigh⟩ := (mem_codecRegs_indices s idx).1 (List.mem_map.2 ⟨p, hp, hidx⟩)
    have hapart : ∀ r ∈ unmappedRanges, ∀ q ∈ codecRanges.take 10, r.2 < q.1 ∨ q.2 < r.1 := by decide
    have := hapart r hr q hq
    omega
  · rw [codecWord, if_neg (by omega), if_neg (by omega), if_neg (by omega)]

/-- An index of the four history arrays: the array by its base, the element if it is mapped (20_memory.md R101). -/
theorem codecWord_history (s : State) {a g : Nat} (ha : a < 4) (hg : g < 0x2000) :
    codecWord s (0x8000 + 0x2000 * a + g) = if g < historyCount s then some (historyWord s a g) else none := by
  have harray : (0x8000 + 0x2000 * a + g - 0x8000) / 0x2000 = a := by omega
  have helement : (0x8000 + 0x2000 * a + g - 0x8000) % 0x2000 = g := by omega
  rw [codecWord, if_neg (by omega), if_neg (by omega), if_pos (by omega), harray, helement]

theorem historyCount_lt (s : State) : historyCount s < 0x2000 := by
  have h1 := s.ngChecked.isLt
  have h2 := s.bp.ngSlice.isLt
  unfold historyCount
  omega

/-- The number of a history array by its base. -/
theorem historyBase {base : Nat} (h : base ∈ [0x8000, 0xA000, 0xC000, 0xE000]) : ∃ a < 4, base = 0x8000 + 0x2000 * a := by
  revert base
  decide

/-- The indices that `REG_RD` reads from neither the image, nor the threshold, nor the status registers. -/
structure CodecIndex (idx : Nat) : Prop where
  image : 0x007F < idx
  threshold : idx ≠ 0x0100
  status : idx ≠ 0x0200
  faultInfo : idx ≠ 0x0201
  faultCmd : idx ≠ 0x0202

theorem CodecIndex.of_lt {idx : Nat} (h : 0x0202 < idx) : CodecIndex idx := by constructor <;> omega

theorem CodecIndex.of_mapped {r : Nat × Nat} (hr : r ∈ codecRanges) {idx : Nat} (low : r.1 ≤ idx) : CodecIndex idx := by
  have habove : ∀ r ∈ codecRanges, 0x0202 < r.1 := by decide
  have := habove r hr
  exact .of_lt (by omega)

theorem CodecIndex.of_unmapped {r : Nat × Nat} (hr : r ∈ unmappedRanges) {idx : Nat} (low : r.1 ≤ idx)
    (high : idx ≤ r.2) : CodecIndex idx := by
  have hapart : ∀ r ∈ unmappedRanges, 0x007F < r.1 ∧ ∀ i ∈ [0x0100, 0x0200, 0x0201, 0x0202], r.2 < i ∨ i < r.1 := by decide
  obtain ⟨himage, hlist⟩ := hapart r hr
  simp only [List.forall_mem_cons] at hlist
  constructor <;> omega

theorem regRead_codec {s : State} {idx : Nat} (h : CodecIndex idx) :
    regRead s idx =
      (codecWord s idx).elim (.error (raising .badIndex idx)) fun v =>
        if s.st.stateValid then .ok v else .error (raising .notActive idx) := by
  rw [regRead, if_neg (Nat.not_le.2 h.image), if_neg h.threshold, if_neg h.status, if_neg h.faultInfo,
    if_neg h.faultCmd]
  cases codecWord s idx <;> rfl

theorem exec_regRd_unmapped {s : State} {idx : Nat} (h : CodecIndex idx) (hw : codecWord s idx = none) :
    exec (.regRd idx) s = .next (s.afterFault .badIndex idx) :=
  exec_regRd_error (by rw [regRead_codec h, hw]; rfl)

theorem exec_regRd_notActive {s : State} {idx : Nat} {w : Word} (h : CodecIndex idx) (hw : codecWord s idx = some w)
    (hv : s.st.stateValid = false) : exec (.regRd idx) s = .next (s.afterFault .notActive idx) :=
  exec_regRd_error (by rw [regRead_codec h, hw]; simp [hv])

theorem exec_regRd_codec {s : State} {idx : Nat} {v : Int} (h : CodecIndex idx)
    (hw : codecWord s idx = some (BitVec.ofInt 32 v)) (hv : s.st.stateValid = true) :
    exec (.regRd idx) s = .next (s.withResult v) :=
  exec_regRd_ok (by rw [regRead_codec h, hw]; simp [hv]) rfl

/-- Settles O24: the image, the threshold and the status registers stand before the codec state in the index map, and an
index outside both is not mapped. -/
theorem regRdStatusAndConfig : Obligations.RegRdStatusAndConfig := by
  intro s
  obtain ⟨faulted, cfgValid, active, encoder, done, stateValid, reserved, code⟩ := status_word_fields s.st
  refine ⟨fun idx h => exec_regRd_ok (if_pos h) (ofInt_toNat_eq_zext _), exec_regRd_ok rfl (ofInt_toNat_eq_zext _),
    ⟨s.st.word, exec_regRd_ok rfl BitVec.ofInt_toInt, faulted, cfgValid, active, encoder, done, stateValid, reserved,
      code.trans (status_code_eq s.st)⟩,
    exec_regRd_ok rfl BitVec.ofInt_toInt, exec_regRd_ok rfl BitVec.ofInt_toInt, fun r hr idx low high => ?_,
    fun base hbase g hcount hg => ?_⟩
  · exact exec_regRd_unmapped (.of_unmapped hr low high) (codecWord_unmapped s hr low high)
  · obtain ⟨a, ha, rfl⟩ := historyBase hbase
    exact exec_regRd_unmapped (.of_lt (by omega)) ((codecWord_history s ha hg).trans (if_neg (Nat.not_lt.2 hcount)))

end Sys2Proof.Machine

namespace Sys2Proof.Machine

/-! ### The codec state by index -/

theorem mem_triRegs (base : Nat) (t : Tri Word) (c : Idx3) : (base + c.toNat, t.get c) ∈ triRegs base t := by
  cases c <;> simp [triRegs]

theorem triMap_get {α β : Type} (f : α → β) (t : Tri α) (c : Idx3) : (triMap f t).get c = f (t.get c) := by
  cases c <;> rfl

theorem mem_costRegs (base : Nat) (k : BpCost) {j : Nat} (hj : j < 8) :
    (base + j, zext (k.bp.getD j 0)) ∈ costRegs base k :=
  List.mem_map.2 ⟨j, List.mem_range.2 hj, rfl⟩

theorem ofInt_bool (b : Bool) : BitVec.ofInt 32 (b.toNat : Int) = bitWord b := by
  rw [BitVec.ofInt_natCast]
  rfl

/-- A codec register's word is what its index reads. -/
theorem codecWord_of_mem {s : State} {idx : Nat} {w : Word} (h : (idx, w) ∈ codecRegs s) : codecWord s idx = some w := by
  have hlt : ∀ r ∈ codecRanges.take 10, r.2 < 0x1000 := by decide
  obtain ⟨r, hr, -, high⟩ := (mem_codecRegs_indices s idx).1 (List.mem_map.2 ⟨_, h, rfl⟩)
  have := hlt r hr
  rw [codecWord, if_pos (by omega)]
  exact storeRead_of_mem (codecRegs_wf s) h

/-- `REG_RD` of a codec register. -/
theorem exec_regRd_register {s : State} {idx : Nat} {v : Int} (h : (idx, BitVec.ofInt 32 v) ∈ codecRegs s)
    (hv : s.st.stateValid = true) : exec (.regRd idx) s = .next (s.withResult v) := by
  obtain ⟨r, hr, low, -⟩ := (mem_codecRegs_indices s idx).1 (List.mem_map.2 ⟨_, h, rfl⟩)
  exact exec_regRd_codec (.of_mapped (List.mem_of_mem_take hr) low) (codecWord_of_mem h) hv

/-- The single registers and the words the model lists for them are the same. -/
theorem codingRegs_words (s : State) :
    (codingRegs s).map (fun r => (r.1, BitVec.ofInt 32 r.2)) = codecRegs1 s := by
  simp only [codingRegs, codecRegs1, regAt, List.map_cons, List.map_nil, ofInt_toNat_eq_zext, BitVec.ofInt_toInt,
    ofInt_bool]

theorem codingRegs_mem {s : State} {r : Nat × Int} (h : r ∈ codingRegs s) : (r.1, BitVec.ofInt 32 r.2) ∈ codecRegs s := by
  have hwords : (r.1, BitVec.ofInt 32 r.2) ∈ codecRegs1 s := codingRegs_words s ▸ List.mem_map_of_mem h
  simp [codecRegs, hwords]

theorem ofInt_recordBits (f : FlatRec) : BitVec.ofInt 32 (recordBits f : Int) = f.word := by
  rw [BitVec.ofInt_natCast]
  rfl

theorem ofInt_flatness (f : Flatness) :
    BitVec.ofInt 32 ((if f = .none then 0 else if f = .somewhat then 1 else 2 : Nat) : Int) = BitVec.ofNat 32 f.toNat := by
  cases f <;> rfl

theorem groupRegs_mem {s : State} {r : Nat × Int} (h : r ∈ groupRegs s) : (r.1, BitVec.ofInt 32 r.2) ∈ codecRegs s := by
  revert r
  simp only [groupRegs, regAt, List.forall_mem_cons, ofInt_toNat_eq_zext, ofInt_bool, ofInt_recordBits, ofInt_flatness]
  simp [codecRegs, codecRegs2, codecRegs3]

/-- Word j of entry k of the ICH store (20_memory.md R100). -/
theorem codecWord_ich (s : State) {k j : Nat} (hk : k < 32) (hj : j < 4) :
    codecWord s (0x1000 + 4 * k + j) = some (ichWord (ichEntry s k) j) := by
  have hentry : (0x1000 + 4 * k + j - 0x1000) / 4 = k := by omega
  have hword : (0x1000 + 4 * k + j - 0x1000) % 4 = j := by omega
  rw [codecWord, if_neg (by omega), if_pos (by omega), hentry, hword]

theorem ichWord_value (e : IchEntry) (c : Cpnt) :
    ichWord e c.toNat = BitVec.ofInt 32 (if e.valid = true then ((e.v.get c).toNat : Int) else 0) := by
  by_cases h : e.valid = true
  · cases c <;> simp only [ichWord, Idx3.toNat, Tri.get, h, if_true, ofInt_toNat_eq_zext]
  · cases c <;> simp only [ichWord, Idx3.toNat, h] <;> rfl

/-- Each array of registers is listed at its base (10_state.md R44, R45, R47, R48). -/
theorem triRegs_mem_codecRegs (s : State) (c : Idx3) :
    (0x0343 + c.toNat, zext (s.size.predictedSize.get c)) ∈ codecRegs s ∧
      (0x0347 + c.toNat, zext (s.size.sizeUsed.get c)) ∈ codecRegs s ∧
      (0x034A + c.toNat, bitWord (s.size.mppUsed.get c)) ∈ codecRegs s ∧
      (0x0353 + c.toNat, zext (s.mode.ichIdx.get c)) ∈ codecRegs s ∧
      (0x0388 + c.toNat, zext (s.bp.window.get c).map) ∈ codecRegs s := by
  simp only [← triMap_get zext, ← triMap_get bitWord, ← triMap_get (fun k : BpCost => zext k.map)]
  simp only [codecRegs, codecRegs2, codecRegs3, List.mem_append]
  simp only [mem_triRegs, true_or, or_true, and_self]

theorem costRegs_mem_codecRegs (s : State) (k : Idx3) {j : Nat} (hj : j < 8) :
    (0x0370 + 8 * k.toNat + j, zext ((s.bp.window.get k).bp.getD j 0)) ∈ codecRegs s := by
  have hslot : (0x0370 + 8 * k.toNat + j, zext ((s.bp.window.get k).bp.getD j 0)) ∈
      costRegs (0x0370 + 8 * k.toNat) (s.bp.window.get k) := mem_costRegs _ _ hj
  simp only [codecRegs, codecRegs3, List.mem_append]
  cases k <;> simp only [Idx3.toNat_i0, Idx3.toNat_i1, Idx3.toNat_i2, Tri.get_i0, Tri.get_i1, Tri.get_i2, Nat.reduceMul,
    Nat.reduceAdd] at hslot ⊢ <;> simp only [hslot, true_or, or_true]

theorem scratch_mem_codecRegs (s : State) (c i : Idx3) :
    (0x03A0 + 3 * c.toNat + i.toNat, (s.scratch.qres.get c).get i) ∈ codecRegs s ∧
      (0x03B0 + 3 * c.toNat + i.toNat, (s.scratch.pred.get c).get i) ∈ codecRegs s := by
  have hqres := mem_triRegs (0x03A0 + 3 * c.toNat) (s.scratch.qres.get c) i
  have hpred := mem_triRegs (0x03B0 + 3 * c.toNat) (s.scratch.pred.get c) i
  simp only [codecRegs, codecRegs3, List.mem_append]
  cases c <;> simp only [Idx3.toNat_i0, Idx3.toNat_i1, Idx3.toNat_i2, Tri.get_i0, Tri.get_i1, Tri.get_i2, Nat.reduceMul,
    Nat.reduceAdd] at hqres hpred ⊢ <;> simp only [hqres, hpred, true_or, or_true, and_self]

/-- Element g of each history array, at the array's base (10_state.md R47). -/
theorem historyRegs_words (s : State) {g : Nat} (hg : g < historyCount s) :
    codecWord s (0x8000 + g) = some (BitVec.ofInt 32 ((s.bp.ptypeCur.getD g .left).toNat : Int)) ∧
      codecWord s (0xA000 + g) = some (BitVec.ofInt 32 ((s.bp.bpVecCur.getD g 0).toNat : Int)) ∧
      codecWord s (0xC000 + g) = some (BitVec.ofInt 32 ((s.bp.ptypeNext.getD g .left).toNat : Int)) ∧
      codecWord s (0xE000 + g) = some (BitVec.ofInt 32 ((s.bp.bpVecNext.getD g 0).toNat : Int)) := by
  have word {a : Nat} (ha : a < 4) : codecWord s (0x8000 + 0x2000 * a + g) = some (historyWord s a g) :=
    (codecWord_history s ha (hg.trans (historyCount_lt s))).trans (if_pos hg)
  simp only [ofInt_toNat_eq_zext]
  exact ⟨word (a := 0) (by decide), word (a := 1) (by decide), word (a := 2) (by decide), word (a := 3) (by decide)⟩

/-- Settles O25: with `stateValid` every index of the codec state reads the register it names, and without it none can be
read. -/
theorem regRdCodecState : Obligations.RegRdCodecState := by
  intro s
  refine ⟨fun hv => ?_, fun hv => ⟨fun r hr idx low high => ?_, fun base hbase g hg => ?_⟩⟩
  · have reads {idx : Nat} {v : Int} (h : (idx, BitVec.ofInt 32 v) ∈ codecRegs s) := exec_regRd_register h hv
    refine ⟨fun r hr => ?_, fun c => ?_, fun k j hj => ?_, fun c i => ?_, fun k hk => ⟨fun c => ?_, ?_⟩, fun g hg => ?_⟩
    · rcases List.mem_append.1 hr with hr | hr
      · exact reads (codingRegs_mem hr)
      · exact reads (groupRegs_mem hr)
    · have hregs := triRegs_mem_codecRegs s c
      simp only [← ofInt_toNat_eq_zext, ← ofInt_bool] at hregs
      obtain ⟨predicted, used, mpp, ich, cost⟩ := hregs
      exact ⟨reads predicted, reads used, reads mpp, reads ich, reads cost⟩
    · exact reads ((ofInt_toNat_eq_zext _).symm ▸ costRegs_mem_codecRegs s k hj)
    · obtain ⟨qres, pred⟩ := scratch_mem_codecRegs s c i
      exact ⟨reads (BitVec.ofInt_toInt.symm ▸ qres), reads (BitVec.ofInt_toInt.symm ▸ pred)⟩
    · refine exec_regRd_codec (.of_lt (by omega)) ?_ hv
      rw [codecWord_ich s hk (Nat.lt_succ_of_lt c.toNat_lt), ichWord_value]
    · refine exec_regRd_codec (.of_lt (by omega)) ?_ hv
      rw [codecWord_ich s hk (by decide), ofInt_bool]
      rfl
    · obtain ⟨classCur, vectorCur, classNext, vectorNext⟩ := historyRegs_words s hg
      exact ⟨exec_regRd_codec (.of_lt (by omega)) classCur hv, exec_regRd_codec (.of_lt (by omega)) vectorCur hv,
        exec_regRd_codec (.of_lt (by omega)) classNext hv, exec_regRd_codec (.of_lt (by omega)) vectorNext hv⟩
  · obtain ⟨w, hw⟩ := codecWord_mapped s hr low high
    exact exec_regRd_notActive (.of_mapped hr low) hw hv
  · obtain ⟨a, ha, rfl⟩ := historyBase hbase
    have hlt : g < 0x2000 := lt_trans hg (historyCount_lt s)
    exact exec_regRd_notActive (.of_lt (by omega)) ((codecWord_history s ha hlt).trans (if_pos hg)) hv

end Sys2Proof.Machine

namespace Sys2Proof.Machine

/-! ## The bit streams -/

theorem tri_set_get {α : Type} (t : Tri α) (i : Idx3) : t.set i (t.get i) = t := by cases i <;> rfl

theorem tri_set_set {α : Type} (t : Tri α) (i : Idx3) (v w : α) : (t.set i v).set i w = t.set i w := by
  cases i <;> rfl

/-- A bit string is the value it was made from, held to its length (20_memory.md R104). -/
theorem ofBits_toBits (n v : Nat) : ofBits (toBits n v) = v % 2 ^ n := by
  induction n generalizing v with
  | zero => simp [toBits, Nat.mod_one]
  | succ n ih =>
    have hbit : (v % 2 == 1).toNat = v % 2 := by
      rcases Nat.mod_two_eq_zero_or_one v with h | h <;> simp [h]
    rw [toBits, ofBits_append_one, ih, hbit, pow_succ', Nat.mod_mul, Nat.add_comm]

theorem toBits_one_toNat (b : Bool) : toBits 1 b.toNat = [b] := by cases b <;> rfl

theorem ofBits_singleton (b : Bool) : ofBits [b] = b.toNat := by cases b <;> rfl

/-- The sink's limit, if it has one, is not below what it is to accept (20_memory.md R109). -/
theorem accepts_iff (io : BitIo) (ss : Cpnt) (n : Nat) :
    io.accepts ss n = true ↔ ∀ r, io.sinkRoom.get ss = some r → n ≤ r := by
  unfold BitIo.accepts
  cases io.sinkRoom.get ss <;> simp

theorem putList_fits {s : State} {ss : Cpnt} {bs : List Bool}
    (h : ∀ r, s.io.sinkRoom.get ss = some r → bs.length ≤ r) :
    putList ss bs s = .ok bs.length (s.withIo (s.io.put ss bs)) := by
  rw [act_putList, if_pos ((accepts_iff _ _ _).2 h)]

theorem putList_full {s : State} {ss : Cpnt} {bs : List Bool} {r : Nat} (h : s.io.sinkRoom.get ss = some r)
    (hr : r < bs.length) : putList ss bs s = .error (raising .bitio ss.toNat) s := by
  have hno : ¬ s.io.accepts ss bs.length = true := fun ha => by
    have := (accepts_iff _ _ _).1 ha r h
    omega
  rw [act_putList, if_neg hno]

/-- Two calls send what one call of both bit strings sends. -/
theorem put_put (io : BitIo) (ss : Cpnt) (bs cs : List Bool) : (io.put ss bs).put ss cs = io.put ss (bs ++ cs) := by
  have hroom : ((io.sinkRoom.get ss).map (fun r => r - bs.length)).map (fun r => r - cs.length) =
      (io.sinkRoom.get ss).map (fun r => r - (bs.length + cs.length)) := by
    rw [Option.map_map]
    congr 1
    funext r
    exact Nat.sub_sub _ _ _
  simp [BitIo.put, tri_set_set, hroom]

/-- A second call that fits behind a first. -/
theorem putList_after {s : State} {ss : Cpnt} {bs cs : List Bool}
    (h : ∀ r, s.io.sinkRoom.get ss = some r → bs.length + cs.length ≤ r) :
    putList ss cs (s.withIo (s.io.put ss bs)) = .ok cs.length (s.withIo (s.io.put ss (bs ++ cs))) := by
  have hfits : ∀ r, (s.io.put ss bs).sinkRoom.get ss = some r → cs.length ≤ r := fun r hr => by
    rw [BitIo.put, Tri.get_set_self] at hr
    obtain ⟨r', hr', rfl⟩ := Option.map_eq_some_iff.1 hr
    have := h r' hr'
    omega
  rw [putList_fits (s := s.withIo (s.io.put ss bs)) hfits, State.withIo_io, put_put]
  rfl

/-- The state with the bits that a substream of the source still holds replaced. -/
def State.withSource (s : State) (ss : Cpnt) (bs : List Bool) : State :=
  s.withIo { s.io with source := s.io.source.set ss bs }

@[simp] theorem withSource_source (s : State) (ss : Cpnt) (bs : List Bool) :
    (s.withSource ss bs).io.source.get ss = bs := Tri.get_set_self _ _ _

@[simp] theorem withSource_withSource (s : State) (ss : Cpnt) (bs cs : List Bool) :
    (s.withSource ss bs).withSource ss cs = s.withSource ss cs := by
  simp [State.withSource, State.withIo, tri_set_set]

theorem withSource_self (s : State) (ss : Cpnt) : s.withSource ss (s.io.source.get ss) = s := by
  rw [State.withSource, tri_set_get]
  rfl

/-- `GetBits` takes its bits from the front of the source (20_memory.md R109). -/
theorem getBits_front {s : State} {ss : Cpnt} {n : Nat} {bs rest : List Bool} (h : s.io.source.get ss = bs ++ rest)
    (hn : bs.length = n) : getBits ss n s = .ok (ofBits bs) (s.withSource ss rest) := by
  subst hn
  rw [act_getBits, h, if_pos (by simp), List.take_left, List.drop_left]
  rfl

theorem getBits_short {s : State} {ss : Cpnt} {n : Nat} (h : (s.io.source.get ss).length < n) :
    getBits ss n s = .error (raising .bitio ss.toNat) s := by
  rw [act_getBits, if_neg (Nat.not_le.2 h)]

/-- A unary code whose first bit is 1 is 0 (30_encoding.md R150). -/
theorem getUnary_one {s : State} {ss : Cpnt} {n : Nat} {rest : List Bool} (h : s.io.source.get ss = true :: rest) :
    getUnary ss (n + 1) s = .ok 0 (s.withSource ss rest) :=
  act_bind_ok (getBits_front (bs := [true]) h rfl)

/-- A unary code of as many zeros as its greatest value is that value (30_encoding.md R150). -/
theorem getUnary_zeros {s : State} {ss : Cpnt} {n : Nat} {rest : List Bool}
    (h : s.io.source.get ss = List.replicate n false ++ rest) :
    getUnary ss n s = .ok n (s.withSource ss rest) := by
  induction n generalizing s with
  | zero => rw [← show s.io.source.get ss = rest from h, withSource_self]; rfl
  | succ n ih =>
    have hbit := getBits_front (ss := ss) (n := 1) (bs := [false]) (rest := List.replicate n false ++ rest) h rfl
    have hrest := ih (withSource_source s ss (List.replicate n false ++ rest))
    rw [withSource_withSource] at hrest
    exact (act_bind_ok hbit).trans (act_bind_ok hrest)

/-- The faults and the effects of `PutBits` and `GetBits` (20_memory.md R109). -/
theorem bitStreams_rule (s : State) (ss : Cpnt) (n v : Nat) :
    (∀ r, s.io.sinkRoom.get ss = some r → r < n → putBits ss n v s = .error (raising .bitio ss.toNat) s) ∧
    ((∀ r, s.io.sinkRoom.get ss = some r → n ≤ r) →
      ∃ t, putBits ss n v s = .ok n t ∧ t.io.sink = s.io.sink.set ss (s.io.sink.get ss ++ toBits n v) ∧
        t = { s with io := { s.io with sink := t.io.sink, sinkRoom := t.io.sinkRoom } }) ∧
    ((s.io.source.get ss).length < n → getBits ss n s = .error (raising .bitio ss.toNat) s) ∧
    ∀ rest, s.io.source.get ss = toBits n v ++ rest → v < 2 ^ n →
      getBits ss n s = .ok v { s with io := { s.io with source := s.io.source.set ss rest } } := by
  have hlen : (toBits n v).length = n := toBits_length n v
  refine ⟨fun r hr hlt => putList_full hr (hlen.symm ▸ hlt), fun h => ?_, getBits_short, fun rest h hv => ?_⟩
  · have hput := putList_fits (bs := toBits n v) (hlen.symm ▸ h)
    rw [hlen] at hput
    exact ⟨_, hput, rfl, rfl⟩
  · rw [getBits_front h hlen, ofBits_toBits, Nat.mod_eq_of_lt hv]
    rfl

end Sys2Proof.Machine

namespace Sys2Proof.Machine

/-! ## Reads that raise `F_UNINIT` at a gap

A gap is what a read raises, if it raises (`prevGap`, `origGap`, `flatGap`). A row of reads raises its first gap, which is
how the first fault of a command is found (60_exceptions.md R446). -/

section Reads

variable {α β : Type}

/-- A read raises `F_UNINIT` with the word of its gap, and without a gap it answers with `P`. -/
def Reads (r : Rd α) (gap : Option Int) (P : α → Prop) : Prop :=
  match gap with
  | some info => r = .error (raising .uninit info)
  | none => ∃ a, r = .ok a ∧ P a

variable {r : Rd α} {f : α → Rd β} {gap gap' : Option Int} {P : α → Prop} {Q : β → Prop}

theorem reads_ok {a : α} (h : P a) : Reads (.ok a) none P := ⟨a, rfl, h⟩

theorem Reads.mono {P' : α → Prop} (h : Reads r gap P) (hp : ∀ a, P a → P' a) : Reads r gap P' := by
  cases gap with
  | none => obtain ⟨a, ha, hpa⟩ := h; exact ⟨a, ha, hp a hpa⟩
  | some info => exact h

/-- A read after another: the gap of the first, or else that of the second. -/
theorem Reads.bind (h : Reads r gap P) (hf : ∀ a, P a → Reads (f a) gap' Q) : Reads (r >>= f) (gap.or gap') Q := by
  cases gap with
  | none => obtain ⟨a, ha, hpa⟩ := h; rw [ha]; exact hf a hpa
  | some info => rw [show r = _ from h]; exact (rfl : _ = Except.error _)

/-- A read that has no gap before another. -/
theorem Reads.bind_none (h : Reads r none P) (hf : ∀ a, P a → Reads (f a) gap Q) : Reads (r >>= f) gap Q := h.bind hf

/-- A read that has no gap after another. -/
theorem Reads.bind_last (h : Reads r gap P) (hf : ∀ a, P a → Reads (f a) none Q) : Reads (r >>= f) gap Q :=
  (Option.or_none (o := gap)) ▸ h.bind hf

theorem reads_readAll {f : α → Rd β} {l : List α} {R : α → β → Prop} (h : ∀ a ∈ l, Reads (f a) none (R a)) :
    Reads (readAll f l) none fun bs => ∀ b ∈ bs, ∃ a ∈ l, R a b := by
  induction l with
  | nil => exact reads_ok (by simp)
  | cons a l ih =>
    refine (h a List.mem_cons_self).bind_none fun b hb => ?_
    refine (ih fun a' ha' => h a' (List.mem_cons_of_mem _ ha')).bind_none fun bs hbs => reads_ok fun b' hb' => ?_
    rcases List.mem_cons.1 hb' with rfl | hb'
    · exact ⟨a, List.mem_cons_self, hb⟩
    · obtain ⟨a', ha', hr⟩ := hbs b' hb'
      exact ⟨a', List.mem_cons_of_mem _ ha', hr⟩

theorem firstGap_append (l l' : List (Option Int)) : firstGap (l ++ l') = (firstGap l).or (firstGap l') := by
  simp [firstGap, List.findSome?_append]

theorem firstGap_cons (g : Option Int) (l : List (Option Int)) : firstGap (g :: l) = g.or (firstGap l) := by
  cases g <;> rfl

theorem firstGap_eq_none {l : List (Option Int)} : firstGap l = none ↔ ∀ g ∈ l, g = none := by
  simp [firstGap]

/-- A read of each component or pixel in order raises the first gap of the three. -/
theorem reads_readTri {f : Idx3 → Rd α} {gaps : Idx3 → List (Option Int)} {R : Idx3 → α → Prop}
    (h : ∀ i, Reads (f i) (firstGap (gaps i)) (R i)) :
    Reads (readTri f) (firstGap (Idx3.all.flatMap gaps)) fun t => ∀ i, R i (t.get i) := by
  simp only [Idx3.all, List.flatMap_cons, List.flatMap_nil, List.append_nil, firstGap_append]
  refine (h .i0).bind fun b0 h0 => (h .i1).bind fun b1 h1 => (h .i2).bind_last fun b2 h2 => reads_ok fun i => ?_
  cases i <;> assumption

theorem reads_readTri_none {f : Idx3 → Rd α} {R : Idx3 → α → Prop} (h : ∀ i, Reads (f i) none (R i)) :
    Reads (readTri f) none fun t => ∀ i, R i (t.get i) :=
  reads_readTri (gaps := fun _ => []) h

end Reads

/-! ### The line buffers -/

theorem readCell_reads {sp : UninitSpace} {b : LineBuf} {c : Cpnt} {k : Nat}
    (h : (storeRead (b.get c) k).isSome = true) : Reads (readCell sp b c k) none fun _ => True := by
  obtain ⟨v, hv⟩ := Option.isSome_iff_exists.1 h
  exact ⟨_, readCell_some hv, trivial⟩

/-- An original raises its gap, and else answers what its element holds. -/
theorem origRead_reads (s : State) (c : Cpnt) (i : Int) :
    Reads (origRead s c i) (origGap s c i) fun x => x = ((heldOrig s c (edgeIndex s.width i)).toNat : Int) := by
  rw [origRead_eq]
  cases h : storeRead (s.orig.get c) (edgeIndex s.width i) with
  | none =>
    have hgap : origGap s c i = some (gapInfo 3 c.toNat (edgeIndex s.width i)) := if_pos h
    rw [hgap, readCell_none h]
    simp [Reads, uninitAt, gapInfo, uninitSpaceCode]
  | some v =>
    have hgap : origGap s c i = none := if_neg (by simp [h])
    rw [hgap, heldOrig, h]
    exact ⟨_, readCell_some h, rfl⟩

theorem edgeIndex_lt {w : Nat} (h : 1 ≤ w) (i : Int) : edgeIndex w i < w := by
  unfold edgeIndex
  omega

/-- With every original of the line written no read of one has a gap. -/
theorem origGap_of_origIs {s : State} {o : Cpnt → Nat → Sample} (h : s.origIs o) (hw : 1 ≤ s.width) (c : Cpnt) (i : Int) :
    origGap s c i = none := by
  simp [origGap, h c _ (edgeIndex_lt hw i)]

/-! ### The quantization levels -/

theorem cfgFlag_eq (s : State) (f : PpsField) : s.cfgFlag f = true ↔ s.cfg f = 1 := by simp [State.cfgFlag]

theorem isChroma_iff (s : State) (c : Cpnt) : s.isChroma c = true ↔ s.cfg .convertRgb = 1 ∧ c ≠ .i0 := by
  simp [State.isChroma, cfgFlag_eq]

/-- The level of a legal QP is its closed form (41_quantizer.md R232). -/
theorem mapQpToLevel_eq {s : State} (legal : LegalConfig s) (c : Cpnt) {qp : Nat} (h : qp ≤ maxQp s.bpc) :
    mapQpToLevel s c qp = .ok (levelOf s c qp) := by
  have hin : ¬ ((qp : Int) < 0 ∨ (maxQp s.bpc : Int) < qp) := by omega
  have hget : (qlutOf s c)[qp]? = some (levelOf s c qp) := by
    unfold qlutOf levelOf
    by_cases hc : s.isChroma c = true
    · rw [if_pos hc, if_pos ((isChroma_iff s c).1 hc)]
      exact qlutChroma_get legal.bitsPerComponent h
    · rw [if_neg hc, if_neg fun hn => hc ((isChroma_iff s c).2 hn)]
      exact qlutLuma_get legal.bitsPerComponent h
  rw [mapQpToLevel, if_neg hin, Int.toNat_natCast, hget]

theorem readTri_levels {s : State} (legal : LegalConfig s) {qp : Nat} (h : qp ≤ maxQp s.bpc) :
    readTri (fun c => mapQpToLevel s c qp) = .ok ⟨levelOf s .i0 qp, levelOf s .i1 qp, levelOf s .i2 qp⟩ :=
  readTri_ok fun c => by cases c <;> exact mapQpToLevel_eq legal _ h

/-! ### Flatness detection -/

/-- The gaps of a candidate group: component by component, from its left neighbour on (43_rate_control.md R336, log
entry 12). -/
def candidateGaps (s : State) (gsj : Nat) (c : Cpnt) : List (Option Int) :=
  [-1, 0, 1, 2].map fun j => origGap s c ((gsj : Int) + j)

/-- The held original at an offset from a candidate group. -/
def candidateSample (s : State) (gsj : Nat) (c : Cpnt) (j : Int) : Nat :=
  (heldOrig s c (edgeIndex s.width ((gsj : Int) + j))).toNat

/-- The range of a component's held originals over a candidate group (43_rate_control.md R336). -/
def candidateRange (s : State) (gsj : Nat) (c : Cpnt) : Nat :=
  let x := candidateSample s gsj c
  max (x (-1)) (max (x 0) (max (x 1) (x 2))) - min (x (-1)) (min (x 0) (min (x 1) (x 2)))

theorem flatRange_reads (s : State) (c : Cpnt) (gsj : Nat) :
    Reads (flatRange s c gsj) (firstGap (candidateGaps s gsj c)) fun r => r = (candidateRange s gsj c : Int) := by
  have read (j : Int) : Reads (origRead s c ((gsj : Int) + j)) (origGap s c ((gsj : Int) + j)) fun x =>
      x = (candidateSample s gsj c j : Int) := origRead_reads s c _
  have h0 := read 0
  simp only [Int.add_zero] at h0
  simp only [candidateGaps, List.map_cons, List.map_nil, firstGap_cons, Int.add_zero]
  rw [flatRange, sub_eq_add_neg]
  refine (read (-1)).bind fun x0 e0 => h0.bind fun x1 e1 => (read 1).bind fun x2 e2 => (read 2).bind fun x3 e3 =>
    reads_ok ?_
  subst e0 e1 e2 e3
  unfold candidateRange
  dsimp only
  omega

theorem flatClassOf_held (s : State) (qp : Nat) {gsj : Nat} (h : gsj < s.width) :
    flatClassOf s (heldOrig s) qp gsj =
      if ∀ c ∈ Idx3.all, candidateRange s gsj c ≤ s.flatThresh.toNat then 2
      else if ∀ c ∈ Idx3.all, candidateRange s gsj c ≤ s.flatThresh.toNat + 2 ^ levelOf s c qp / 2 then 1
      else 0 := if_neg (Nat.not_le.2 h)

theorem flatClass_reads {s : State} (legal : LegalConfig s) {qp : Nat} (hqp : qp ≤ maxQp s.bpc) {gsj : Nat}
    (h : gsj < s.width) :
    Reads (flatClass s gsj qp) (firstGap (Idx3.all.flatMap (candidateGaps s gsj))) fun k =>
      k.toNat = flatClassOf s (heldOrig s) qp gsj := by
  refine (reads_readTri fun c => flatRange_reads s c gsj).bind_last fun r hr => ?_
  rw [readTri_levels legal hqp]
  refine reads_ok ?_
  have hvery : (∀ c ∈ Idx3.all, r.get c ≤ (s.flatThresh.toNat : Int)) ↔
      ∀ c ∈ Idx3.all, candidateRange s gsj c ≤ s.flatThresh.toNat := by simp [hr]
  have hsomewhat : (∀ c ∈ Idx3.all, r.get c ≤ (s.flatThresh.toNat : Int) + (maxQuantErr
        ((⟨levelOf s .i0 qp, levelOf s .i1 qp, levelOf s .i2 qp⟩ : Tri Nat).get c) : Int)) ↔
      ∀ c ∈ Idx3.all, candidateRange s gsj c ≤ s.flatThresh.toNat + 2 ^ levelOf s c qp / 2 := by
    refine forall₂_congr fun c _ => ?_
    rw [hr c]
    cases c <;> exact Int.ofNat_le
  rw [flatClassOf_held s qp h]
  simp only [List.all_eq_true, decide_eq_true_eq, hvery, hsomewhat]
  split_ifs <;> rfl

/-- A candidate inside the line with a gap ends the detection there; one without a gap ends it by being flat. -/
theorem flatGap_cons (s : State) (gs qp p : Nat) (l : List Nat) (h : gs + 12 + 3 * p < s.width) :
    flatGap s gs qp (p :: l) =
      (firstGap (Idx3.all.flatMap (candidateGaps s (gs + 12 + 3 * p)))).or
        (if flatClassOf s (heldOrig s) qp (gs + 12 + 3 * p) ≠ 0 then none else flatGap s gs qp l) := by
  have hgaps : Idx3.all.flatMap (candidateGaps s (gs + 12 + 3 * p)) = Idx3.all.flatMap (fun c =>
      [-1, 0, 1, 2].map (fun j => origGap s c (((gs + 12 + 3 * p : Nat) : Int) + j))) := rfl
  rw [flatGap, if_neg (Nat.not_le.2 h), hgaps]
  split
  · rename_i info hgap
    rw [hgap]
    rfl
  · rename_i hgap
    rw [hgap]
    rfl

/-- The detection raises the first gap of the candidates up to the first flat one (43_rate_control.md R337). -/
theorem flatScan_reads {s : State} (legal : LegalConfig s) (gs : Nat) {qp : Nat} (hqp : qp ≤ maxQp s.bpc) (l : List Nat) :
    Reads (flatScan s gs qp l) (flatGap s gs qp l) fun _ => True := by
  induction l with
  | nil => exact reads_ok trivial
  | cons p l ih =>
    by_cases hend : s.width ≤ gs + 12 + 3 * p
    · rw [flatScan, flatGap, if_pos hend, if_pos hend]
      exact reads_ok trivial
    · rw [flatScan, flatGap_cons s gs qp p l (Nat.not_le.1 hend), if_neg hend]
      refine (flatClass_reads legal hqp (Nat.not_le.1 hend)).bind fun k hk => ?_
      rw [← hk]
      cases k with
      | none => exact ih
      | somewhat | very => exact reads_ok trivial

end Sys2Proof.Machine

namespace Sys2Proof.Machine

/-! ## What a ready group reads -/

/-- The samples of a component below n are written. -/
abbrev Written (s : State) (c : Cpnt) (n : Nat) : Prop := ∀ j, j < n → (storeRead (s.cur.get c) j).isSome = true

namespace GroupReady

variable {s : State}

theorem width_pos (h : GroupReady s) : 1 ≤ s.width := Nat.one_le_of_lt h.inLine

theorem prevRead_reads (h : GroupReady s) (hv : 1 ≤ s.vPos) (c : Cpnt) (i : Int) :
    Reads (prevRead s c i) none fun _ => True := by
  rw [prevRead_below hv]
  exact readCell_reads (h.above hv c _ (edgeIndex_lt h.width_pos i))

/-- A read of a written sample, or left of the line, has no gap (20_memory.md R102). -/
theorem curRead_reads (h : GroupReady s) {c : Cpnt} {n : Nat} (hw : Written s c n) {i : Int} (hi : i < n) :
    Reads (curRead s c i) none fun _ => True := by
  rcases Int.lt_or_le i 0 with hneg | hpos
  · rcases Nat.eq_zero_or_pos s.vPos with h0 | h1
    · rw [curRead_left_line0 h0 c hneg]
      exact reads_ok trivial
    · rw [curRead_left_below h1 c hneg]
      exact h.prevRead_reads h1 c 0
  · rw [curRead_inside c hpos]
    exact readCell_reads (hw _ (by omega))

theorem mapPred_reads (h : GroupReady s) (hv : 1 ≤ s.vPos) (c : Cpnt) (i : Pix) (q : Nat) (r0 r1 : Int) :
    Reads (mapPred s c s.hPos i q r0 r1) none fun _ => True := by
  have above (j : Int) : Reads (prevRead s c j) none fun _ => True := h.prevRead_reads hv c j
  refine Reads.bind_none (P := fun _ => True) ?_ fun _ _ => reads_ok trivial
  refine (h.curRead_reads (h.left c) (by omega)).bind_none fun _ _ => ?_
  exact (above _).bind_none fun _ _ => (above _).bind_none fun _ _ => (above _).bind_none fun _ _ =>
    (above _).bind_none fun _ _ => (above _).bind_none fun _ _ => (above _).bind_none fun _ _ => reads_ok trivial

/-- The prediction of a pixel of a normal unit has no gap once the pixels left of it are written (44_entropy.md R363). -/
theorem normPred_reads (h : GroupReady s) {c : Cpnt} {i : Pix} (hw : Written s c (s.hPos + i.toNat)) (q : Nat)
    (r0 r1 : Int) : Reads (normPred s c s.hPos i q r0 r1) none fun _ => True := by
  unfold normPred
  split
  · exact h.curRead_reads hw (by omega)
  · have hv : 1 ≤ s.vPos := by omega
    split
    · have := h.vector ‹_›
      exact h.curRead_reads hw (by omega)
    · exact h.mapPred_reads hv c i q r0 r1

theorem midpointOf_reads (h : GroupReady s) (c : Cpnt) (q : Nat) : Reads (midpointOf s c s.hPos q) none fun _ => True :=
  (h.curRead_reads (h.left c) (by omega)).bind_none fun _ _ => reads_ok trivial

/-- The sizes of the next unit (30_encoding.md R152, 44_entropy.md R361). -/
theorem unitPlan_eq (h : GroupReady s) (c : Cpnt) :
    unitPlan s c = .ok ⟨unitLevel s c, unitWidth s c, unitFloor s c⟩ := by
  rw [unitPlan, mapQpToLevel_eq h.legal c h.masterQp, mapQpToLevel_eq h.legal c h.predQp]
  rfl

theorem unitPlans_eq (h : GroupReady s) :
    readTri (fun c => unitPlan s c) =
      .ok ⟨⟨unitLevel s .i0, unitWidth s .i0, unitFloor s .i0⟩, ⟨unitLevel s .i1, unitWidth s .i1, unitFloor s .i1⟩,
        ⟨unitLevel s .i2, unitWidth s .i2, unitFloor s .i2⟩⟩ :=
  readTri_ok fun c => by cases c <;> exact h.unitPlan_eq _

/-- A valid entry can be looked up (42_ich.md R262). -/
theorem historyLookup_reads (h : GroupReady s) {k : Nat} (hk : ichValidAt s k = true) (c : Cpnt) (gs : Int) :
    Reads (historyLookup s k c gs) none fun _ => True := by
  unfold historyLookup
  split
  · rename_i habove
    exact h.prevRead_reads (of_decide_eq_true habove).1 c _
  · rename_i hstored
    have hvalid : (ichEntry s k).valid = true := by simpa [ichValidAt, hstored] using hk
    rw [if_pos hvalid]
    exact reads_ok trivial

end GroupReady

/-! ### The ICH decision -/

section Decision

variable {s : State} {o : Cpnt → Nat → Sample}

theorem origRead_answers (h : GroupReady s) (ho : s.origIs o) (c : Cpnt) (i : Int) :
    Reads (origRead s c i) none fun _ => True :=
  origGap_of_origIs ho h.width_pos c i ▸ (origRead_reads s c i).mono fun _ _ => trivial

theorem mem_ichValidList {k : Nat} : k ∈ ichValidList s ↔ k < 32 ∧ ichValidAt s k = true := by
  simp [ichValidList, ichSize]

/-- The differences of a pixel from the valid entries, each with its entry number (42_ich.md R265). -/
theorem ichDiffs_answers (h : GroupReady s) (ho : s.origIs o) (i gs : Int) :
    Reads (ichDiffs s i gs (ichValidList s)) none fun ds => ∀ d ∈ ds, ichValidAt s d.1 = true := by
  have hdiff : ∀ k ∈ ichValidList s, Reads (do let d ← ichDiff s i gs k; .ok (k, d)) none fun b => b.1 = k := by
    intro k hk
    have hread (c : Cpnt) : Reads (do
        let x ← origRead s c i
        let v ← historyLookup s k c gs
        .ok (absNat (x - v))) none fun _ => True :=
      (origRead_answers h ho c i).bind_none fun _ _ =>
        (h.historyLookup_reads (mem_ichValidList.1 hk).2 c gs).bind_none fun _ _ => reads_ok trivial
    exact (reads_readTri_none hread).bind_none fun _ _ => reads_ok rfl
  refine (reads_readAll hdiff).mono fun ds hds d hd => ?_
  obtain ⟨k, hk, rfl⟩ := hds d hd
  exact (mem_ichValidList.1 hk).2

theorem isOrigWithinQuantError_answers (h : GroupReady s) (ho : s.origIs o) (gs : Nat) :
    Reads (isOrigWithinQuantError s gs) none fun _ => True := by
  unfold isOrigWithinQuantError masterLevels
  rw [readTri_levels h.legal h.masterQp]
  refine (reads_readTri_none (R := fun _ _ => True) fun i => ?_).bind_none fun _ _ => reads_ok trivial
  exact (ichDiffs_answers h ho _ _).bind_none fun _ _ => reads_ok trivial

/-- The best entry is one of those compared (42_ich.md R267). -/
theorem bestEntry_mem {l : List (Nat × Tri Nat)} {k m : Nat} (h : bestEntry l = some (k, m)) : ∃ d, (k, d) ∈ l := by
  induction l generalizing k m with
  | nil => cases h
  | cons p l ih =>
    obtain ⟨k0, d0⟩ := p
    rw [bestEntry] at h
    split at h
    · cases h
      exact ⟨d0, List.mem_cons_self⟩
    · rename_i k' m' hbest
      split at h
      · cases h
        obtain ⟨d, hd⟩ := ih hbest
        exact ⟨d, List.mem_cons_of_mem _ hd⟩
      · cases h
        exact ⟨d0, List.mem_cons_self⟩

theorem pickBestHistoryValue_answers (h : GroupReady s) (ho : s.origIs o) (p : Nat) :
    Reads (pickBestHistoryValue s p) none fun k => ∀ k' ∈ k, ichValidAt s k' = true := by
  refine (ichDiffs_answers h ho _ _).bind_none fun ds hds => reads_ok fun k hk => ?_
  obtain ⟨⟨k', m⟩, hbest, rfl⟩ := Option.map_eq_some_iff.1 hk
  obtain ⟨d, hd⟩ := bestEntry_mem hbest
  exact hds _ hd

theorem groupErr_answers (h : GroupReady s) (ho : s.origIs o) (gs : Nat) {v : Pix → Rd (Tri Int)}
    (hv : ∀ i, Reads (v i) none fun _ => True) : Reads (groupErr s gs v) none fun _ => True := by
  refine (reads_readTri_none (R := fun _ _ => True) fun i => (hv i).bind_none fun t _ => ?_).bind_none fun _ _ =>
    reads_ok trivial
  exact (reads_readTri_none fun c => origRead_answers h ho c _).bind_none fun _ _ => reads_ok trivial

theorem normalCost_answers (h : GroupReady s) (ho : s.origIs o) (hw : ∀ c, Written s c (s.hPos + 3)) (us : Tri UnitCode) :
    Reads (normalCost s s.hPos us) none fun _ => True := by
  refine (groupErr_answers h ho s.hPos fun i => ?_).bind_none fun _ _ => reads_ok trivial
  refine (reads_readTri_none (R := fun _ _ => True) fun c => h.curRead_reads (hw c) ?_).mono fun _ _ => trivial
  have := i.toNat_lt
  omega

theorem ichCost_answers (h : GroupReady s) (ho : s.origIs o) (gs : Nat) (u : UnitPlan) {ks : Tri Nat}
    (hks : ∀ i, ichValidAt s (ks.get i) = true) : Reads (ichCost s gs u ks) none fun _ => True := by
  refine (groupErr_answers h ho gs fun i => ?_).bind_none fun _ _ => reads_ok trivial
  exact (reads_readTri_none fun c => h.historyLookup_reads (hks i) c gs).mono fun _ _ => trivial

/-- With the originals and the group's samples written the decision raises nothing (44_entropy.md R368). -/
theorem ichDecision_answers (h : GroupReady s) (ho : s.origIs o) (hw : ∀ c, Written s c (s.hPos + 3)) (us : Tri UnitCode) :
    Reads (ichDecision s s.hPos us) none fun _ => True := by
  unfold ichDecision
  split
  · exact reads_ok trivial
  · refine (isOrigWithinQuantError_answers h ho _).bind_none fun ok _ => ?_
    split
    · exact reads_ok trivial
    · refine (reads_readTri_none fun i => pickBestHistoryValue_answers h ho _).bind_none fun ks hks => ?_
      split
      · rename_i k0 k1 k2 e0 e1 e2
        have hvalid : ∀ i, ichValidAt s ((⟨k0, k1, k2⟩ : Tri Nat).get i) = true := fun i => by
          cases i
          · exact hks .i0 _ e0
          · exact hks .i1 _ e1
          · exact hks .i2 _ e2
        exact (normalCost_answers h ho hw us).bind_none fun _ _ =>
          (ichCost_answers h ho _ _ hvalid).bind_none fun _ _ => reads_ok trivial
      · exact reads_ok trivial

end Decision

end Sys2Proof.Machine

namespace Sys2Proof.Machine

/-! ## The units of the encoder, up to the first gap -/

/-- Coding pixels writes `cur` and the scratch registers alone, and no written sample becomes unspecified. -/
structure Coded (s t : State) : Prop where
  frame : ∃ cur scratch, t = { s with cur := cur, scratch := scratch }
  written : ∀ c n, Written s c n → Written t c n

theorem Coded.refl (s : State) : Coded s s := ⟨⟨s.cur, s.scratch, rfl⟩, fun _ _ h => h⟩

theorem Coded.trans {s t u : State} (h : Coded s t) (k : Coded t u) : Coded s u where
  frame := by
    obtain ⟨_, _, rfl⟩ := h.frame
    obtain ⟨cur, scratch, rfl⟩ := k.frame
    exact ⟨cur, scratch, rfl⟩
  written c n hw := k.written c n (h.written c n hw)

theorem Coded.groupReady {s t : State} (h : Coded s t) (hs : GroupReady s) : GroupReady t := by
  have left (c : Cpnt) : Written t c s.hPos := h.written c _ (hs.left c)
  obtain ⟨cur, scratch, rfl⟩ := h.frame
  exact { hs with legal := hs.legal.of_mem rfl, left := left }

theorem Coded.hPos {s t : State} (h : Coded s t) : t.hPos = s.hPos := by
  obtain ⟨_, _, rfl⟩ := h.frame
  rfl

theorem Coded.origGap {s t : State} (h : Coded s t) (c : Cpnt) (i : Int) : origGap t c i = origGap s c i := by
  obtain ⟨_, _, rfl⟩ := h.frame
  rfl

section Codes

variable {α β : Type}

/-- A piece that codes pixels: with a gap it raises `F_UNINIT` with its word, and without one it answers with `Q`. -/
def Codes (m : Act α) (s : State) (gap : Option Int) (Q : α → State → Prop) : Prop :=
  Ends m s (fun a t => gap = none ∧ Coded s t ∧ Q a t) fun r t =>
    ∃ info, gap = some info ∧ r = raising .uninit info ∧ Coded s t

variable {m : Act α} {f : α → Act β} {s : State} {gap gap' : Option Int} {P : α → State → Prop} {Q : β → State → Prop}

theorem codes_ok {a : α} {t : State} (h : m s = .ok a t) (hc : Coded s t) (hp : P a t) : Codes m s none P :=
  ends_ok h ⟨rfl, hc, hp⟩

theorem codes_sense {g : State → Rd α} {R : α → Prop} (h : Reads (g s) gap R) :
    Codes (sense g) s gap fun _ t => t = s := by
  cases gap with
  | none =>
    obtain ⟨a, ha, -⟩ := h
    exact codes_ok (act_sense_ok ha) (.refl s) rfl
  | some info => exact ends_error (act_sense_error h) ⟨info, rfl, rfl, .refl s⟩

theorem codes_look (g : State → α) (s : State) : Codes (look g) s none fun _ t => t = s :=
  codes_ok (act_look g s) (.refl s) rfl

/-- A piece after another: the gap of the first, or else that of the second. -/
theorem Codes.bind (h : Codes m s gap P) (hf : ∀ a t, gap = none → Coded s t → P a t → Codes (f a) t gap' Q) :
    Codes (m >>= f) s (gap.or gap') Q := by
  refine ends_bind ⟨fun a t ht => ?_, fun r t ht => ?_⟩
  · obtain ⟨rfl, hc, hp⟩ := h.answers a t ht
    have hrest := hf a t rfl hc hp
    refine ⟨fun b u hu => ?_, fun r u hu => ?_⟩
    · obtain ⟨hg, hc', hq⟩ := hrest.answers b u hu
      exact ⟨hg, hc.trans hc', hq⟩
    · obtain ⟨info, hg, hr, hc'⟩ := hrest.raises r u hu
      exact ⟨info, hg, hr, hc.trans hc'⟩
  · obtain ⟨info, rfl, hr, hc⟩ := h.raises r t ht
    exact ⟨info, rfl, hr, hc⟩

theorem Codes.bind_none (h : Codes m s none P) (hf : ∀ a t, Coded s t → P a t → Codes (f a) t gap Q) :
    Codes (m >>= f) s gap Q := h.bind fun a t _ => hf a t

theorem Codes.bind_last (h : Codes m s gap P) (hf : ∀ a t, gap = none → Coded s t → P a t → Codes (f a) t none Q) :
    Codes (m >>= f) s gap Q := (Option.or_none (o := gap)) ▸ h.bind hf

theorem codes_forAll {g : α → Act Unit} {l : List α}
    (h : ∀ a ∈ l, ∀ t, Coded s t → Codes (g a) t none fun _ _ => True) : Codes (forAll g l) s none fun _ _ => True := by
  induction l generalizing s with
  | nil => exact codes_ok (act_pure _ s) (.refl s) trivial
  | cons a l ih =>
    exact (h a List.mem_cons_self s (.refl s)).bind_none fun _ t hc _ =>
      ih fun b hb u hu => h b (List.mem_cons_of_mem _ hb) u (hc.trans hu)

end Codes

/-- Pixel i of the group is written, and nothing else of `cur` (44_entropy.md R364). -/
theorem writePixel_codes (s : State) (c : Cpnt) (gs : Nat) (i : Pix) (q : Nat) (p e : Int) :
    Codes (writePixel c gs i q p e) s none fun _ t =>
      Written s c (gs + i.toNat) → Written t c (gs + i.toNat + 1) := by
  have hread (c' : Cpnt) (j : Nat) :
      (storeRead ((writeCell s.cur c (gs + i.toNat)
        (BitVec.ofInt 16 (reconSample s c p (dequantize e q)))).get c') j).isSome = true ↔
        c' = c ∧ j = gs + i.toNat ∨ (storeRead (s.cur.get c') j).isSome = true := by
    rw [storeRead_writeCell]
    split <;> simp [*]
  refine codes_ok (act_update _ s) ⟨⟨_, _, rfl⟩, fun c' n hw j hj => ?_⟩ fun hw j hj => ?_
  · exact (hread c' j).2 (.inr (hw j hj))
  · rcases Nat.lt_succ_iff_lt_or_eq.1 hj with hj | rfl
    · exact (hread c j).2 (.inr (hw j hj))
    · exact (hread c _).2 (.inl ⟨rfl, rfl⟩)

/-- The gaps of a component's originals of the group, in pixel order. -/
def unitGaps (s : State) (c : Cpnt) : List (Option Int) :=
  Idx3.all.map fun i : Pix => origGap s c ((s.hPos : Int) + i.toNat)

theorem Coded.unitGaps {s t : State} (h : Coded s t) (c : Cpnt) : unitGaps t c = unitGaps s c := by
  simp [Machine.unitGaps, h.hPos, h.origGap]

section Unit

variable {s : State} {c : Cpnt}

theorem normalPixel_codes (h : GroupReady s) {i : Pix} (hw : Written s c (s.hPos + i.toNat)) (q : Nat) (r0 r1 : Int) :
    Codes (normalPixel c s.hPos q i r0 r1) s (origGap s c ((s.hPos : Int) + i.toNat)) fun _ t =>
      Written t c (s.hPos + i.toNat + 1) := by
  refine (codes_sense (h.normPred_reads hw q r0 r1)).bind_none fun p t _ ht => ?_
  subst ht
  refine (codes_sense (origRead_reads t c _)).bind_last fun x u _ _ hu => ?_
  subst hu
  exact (writePixel_codes u c u.hPos i q p _).bind_none fun _ v _ hv => codes_ok (act_pure _ v) (.refl v) (hv hw)

theorem normalUnit_codes (h : GroupReady s) (q : Nat) :
    Codes (normalUnit c s.hPos q) s (firstGap (unitGaps s c)) fun _ t => Written t c (s.hPos + 3) := by
  have next {t : State} (hc : Coded s t) {i : Pix} (hw : Written t c (s.hPos + i.toNat)) (r0 r1 : Int) :
      Codes (normalPixel c s.hPos q i r0 r1) t (origGap s c ((s.hPos : Int) + i.toNat)) fun _ u =>
        Written u c (s.hPos + i.toNat + 1) := by
    have := normalPixel_codes (hc.groupReady h) (c := c) (i := i) (by rwa [hc.hPos]) q r0 r1
    rwa [hc.hPos, hc.origGap] at this
  simp only [unitGaps, Idx3.all, List.map_cons, List.map_nil, firstGap_cons]
  refine (next (.refl s) (i := .i0) (h.left c) 0 0).bind fun e0 t _ ht hw0 => ?_
  refine (next ht (i := .i1) hw0 _ 0).bind fun e1 u _ hu hw1 => ?_
  refine (next (ht.trans hu) (i := .i2) hw1 _ _).bind fun e2 v _ _ hw2 => ?_
  exact codes_ok (act_pure _ v) (.refl v) hw2

theorem mppUnit_codes (h : GroupReady s) (hgap : firstGap (unitGaps s c) = none) (u : UnitPlan) :
    Codes (mppUnit c s.hPos u) s none fun _ _ => True := by
  refine (codes_sense (h.midpointOf_reads c u.q)).bind_none fun mid t _ ht => ?_
  subst ht
  refine codes_forAll fun i hi v hv => ?_
  have hnone : origGap v c ((t.hPos : Int) + i.toNat) = none := by
    rw [hv.origGap]
    exact firstGap_eq_none.1 hgap _ (List.mem_map.2 ⟨i, hi, rfl⟩)
  refine (codes_sense (hnone ▸ origRead_reads v c _)).bind_none fun x w _ hw => ?_
  subst hw
  exact (writePixel_codes w c t.hPos i u.q mid _).bind_none (f := pure) fun _ z _ _ =>
    codes_ok (act_pure _ z) (.refl z) trivial

/-- A unit is coded, or raises the first gap of its originals (44_entropy.md R364 to R366). -/
theorem encUnit_codes (h : GroupReady s) (c : Cpnt) :
    Codes (encUnit c s.hPos) s (firstGap (unitGaps s c)) fun _ t => Written t c (s.hPos + 3) := by
  refine (codes_sense (R := fun _ => True) (h.unitPlan_eq c ▸ reads_ok trivial)).bind_none fun u t _ ht => ?_
  subst ht
  refine (normalUnit_codes h u.q).bind_last fun e v hgap hv hw => ?_
  refine (codes_look _ v).bind_none fun forced w _ hwv => ?_
  subst hwv
  have kept {x : State} (hx : Coded w x) : Written x c (t.hPos + 3) := hx.written c _ hw
  split
  · have hmpp := mppUnit_codes (hv.groupReady h) (hv.unitGaps c ▸ hgap) u
    rw [hv.hPos] at hmpp
    exact hmpp.bind_none fun _ x hx _ => codes_ok (act_pure _ x) (.refl x) (kept hx)
  · exact codes_ok (act_pure _ w) (.refl w) hw

end Unit

/-- The gaps of the group's originals, component by component (log entry 12). -/
def groupGaps (s : State) : List (Option Int) := Idx3.all.flatMap (unitGaps s)

/-- The three units of a group (44_entropy.md R370 steps 2 and 3). -/
def codeUnits (gs : Nat) : Act (Tri UnitCode) := do
  let u0 ← encUnit .i0 gs
  let u1 ← encUnit .i1 gs
  let u2 ← encUnit .i2 gs
  pure ⟨u0, u1, u2⟩

/-- The units of a group are coded, or raise the first gap of its originals. -/
theorem codeUnits_codes {s : State} (h : GroupReady s) :
    Codes (codeUnits s.hPos) s (firstGap (groupGaps s)) fun _ t => ∀ c, Written t c (s.hPos + 3) := by
  have next {t : State} (hc : Coded s t) (c : Cpnt) :
      Codes (encUnit c s.hPos) t (firstGap (unitGaps s c)) fun _ u => Written u c (s.hPos + 3) := by
    have := encUnit_codes (hc.groupReady h) c
    rwa [hc.hPos, hc.unitGaps] at this
  simp only [groupGaps, Idx3.all, List.flatMap_cons, List.flatMap_nil, List.append_nil, firstGap_append]
  refine (next (.refl s) .i0).bind fun u0 t _ ht h0 => (next ht .i1).bind fun u1 u _ hu h1 => ?_
  refine (next (ht.trans hu) .i2).bind_last fun u2 v _ hv h2 => codes_ok (act_pure _ v) (.refl v) fun c => ?_
  cases c with
  | i0 => exact (hu.trans hv).written _ _ h0
  | i1 => exact hv.written _ _ h1
  | i2 => exact h2

/-- The rest of the encoder's group after its units (44_entropy.md R370 steps 4 and 5). -/
def encodeTail (gs nf : Nat) (us : Tri UnitCode) : Act Unit := do
  let d ← sense (fun s => ichDecision s gs us)
  let r ← encEmit gs us d
  finishGroup gs (nf + r.1) r.2

theorem encodeGroup_eq (gs : Nat) :
    encodeGroup gs = encFlat gs >>= fun nf => codeUnits gs >>= fun us => encodeTail gs nf us := by
  simp [encodeGroup, codeUnits, encodeTail]

/-! ### The flatness fields -/

/-- The flatness registers of a group without flatness fields: the record is cleared at the start of a supergroup
(44_entropy.md R370, R375). -/
def State.flatSkipped (s : State) : State :=
  { s with flat := if s.flat.sgPos = 0 then { s.flat with flatNext := FlatRec.zero } else s.flat }

theorem flatFieldsPresent_iff (s : State) :
    flatFieldsPresent s = true ↔ s.cfg .flatnessMinQp ≤ s.masterQp ∧ s.masterQp ≤ s.cfg .flatnessMaxQp := by
  simp [flatFieldsPresent]

/-- Where no flatness fields are present, a choice by their presence skips them. -/
theorem flatStep_absent {s : State} (h : ¬ flatPresent s) (m : Act Nat) :
    (do
      let first ← look (fun s => decide (s.flat.sgPos = 0))
      if first = true then do
        let present ← look flatFieldsPresent
        if present = true then m
        else do
          update (fun s => s.setFlatNext FlatRec.zero)
          pure 0
      else pure 0) s = .ok 0 s.flatSkipped := by
  rw [act_bind_ok (act_look _ s)]
  by_cases hfirst : s.flat.sgPos = 0
  · have hno : ¬ flatFieldsPresent s = true := fun hp => h ⟨hfirst, (flatFieldsPresent_iff s).1 hp⟩
    rw [if_pos (decide_eq_true hfirst), act_bind_ok (act_look _ s), if_neg hno]
    simp [act_bind, State.flatSkipped, hfirst, State.setFlatNext, State.withFlat]
  · rw [if_neg (by simpa using hfirst)]
    rw [State.flatSkipped, if_neg hfirst]
    rfl

theorem flatStep_present {s : State} (h : flatPresent s) (m n : Act Nat) :
    (do
      let first ← look (fun s => decide (s.flat.sgPos = 0))
      if first = true then do
        let present ← look flatFieldsPresent
        if present = true then m
        else n
      else pure 0) s = m s := by
  obtain ⟨hfirst, hpresent⟩ := h
  rw [act_bind_ok (act_look _ s), if_pos (decide_eq_true hfirst), act_bind_ok (act_look _ s),
    if_pos ((flatFieldsPresent_iff s).2 hpresent)]

theorem encFlat_absent {s : State} (h : ¬ flatPresent s) (gs : Nat) : encFlat gs s = .ok 0 s.flatSkipped :=
  flatStep_absent h _

theorem decFlat_absent {s : State} (h : ¬ flatPresent s) : decFlat s = .ok 0 s.flatSkipped := flatStep_absent h _

/-- Flatness fields that are present are detected, sent and recorded (44_entropy.md R370 step 1). -/
theorem encFlat_present {s : State} (h : flatPresent s) (gs : Nat) :
    encFlat gs s =
      (do
        let f ← sense (fun s => flatDetect s gs s.masterQp)
        let n ← putFlatFields f
        update (fun s => s.setFlatNext f)
        pure n : Act Nat) s := flatStep_present h _ _

theorem decFlat_present {s : State} (h : flatPresent s) :
    decFlat s =
      (do
        let f ← getFlatFields
        update (fun s => s.setFlatNext f.1)
        pure f.2 : Act Nat) s := flatStep_present h _ _

/-- The bits of a flatness record (30_encoding.md R151). -/
def recordWire (f : FlatRec) : List Bool := if f.valid = true then true :: toBits 2 f.pos.toNat ++ [f.very] else [false]

theorem flatWire_eq (s t : State) : flatWire s t = if flatPresent s then recordWire t.flat.flatNext else [] := rfl

/-- The fields of a record are sent where four bits fit (30_encoding.md R151). -/
theorem putFlatFields_fits {s : State} (h : ∀ r, s.io.sinkRoom.get .i0 = some r → 4 ≤ r) (f : FlatRec) :
    ∃ n, putFlatFields f s = .ok n (s.withIo (s.io.put .i0 (recordWire f))) := by
  have hone : putBits .i0 1 f.valid.toNat s = .ok 1 (s.withIo (s.io.put .i0 [f.valid])) := by
    rw [putBits, toBits_one_toNat]
    exact putList_fits fun r hr => le_trans (by simp) (h r hr)
  by_cases hv : f.valid = true
  · have hpos : putBits .i0 2 f.pos.toNat (s.withIo (s.io.put .i0 [f.valid])) =
        .ok 2 (s.withIo (s.io.put .i0 ([f.valid] ++ toBits 2 f.pos.toNat))) := by
      rw [putBits, putList_after fun r hr => ?_, toBits_length]
      have := h r hr
      simp
      omega
    have htype : putBits .i0 1 f.very.toNat (s.withIo (s.io.put .i0 ([f.valid] ++ toBits 2 f.pos.toNat))) =
        .ok 1 (s.withIo (s.io.put .i0 (recordWire f))) := by
      rw [putBits, toBits_one_toNat, putList_after fun r hr => ?_]
      · simp [recordWire, hv]
      · simpa using h r hr
    refine ⟨1 + 2 + 1, (act_bind_ok hone).trans ?_⟩
    rw [if_pos hv, act_bind_ok hpos, act_bind_ok htype]
    rfl
  · refine ⟨1, (act_bind_ok hone).trans ?_⟩
    simp [recordWire, hv]

/-- A full luma sink takes no bit of a record (20_memory.md R109). -/
theorem putFlatFields_full {s : State} (h : s.io.sinkRoom.get .i0 = some 0) (f : FlatRec) :
    putFlatFields f s = .error (raising .bitio 0) s :=
  act_bind_error (putList_full h (by simp))

end Sys2Proof.Machine

namespace Sys2Proof.Machine

/-! ## The faults of the group commands -/

/-- A ready encoder runs its group. -/
theorem exec_encGroup_ready {s : State} (h : GroupReady s) (he : s.st.isEncoder = true) :
    exec .encGroup s = complete (encodeGroup s.hPos) s := by
  have hdirection : encoderOnly s = .ok () s := act_demand_pos (by simp [h.active, he])
  have hready : groupReady s = .ok () s := act_demand_pos (by simp [h.lineOpen, h.noneLeft, h.inLine])
  have htext : (do encoderOnly; groupReady; let gs ← look (fun s => s.hPos); encodeGroup gs : Act Unit) s =
      encodeGroup s.hPos s := by
    rw [act_bind_ok hdirection, act_bind_ok hready, act_bind_ok (act_look _ s)]
  rw [show exec .encGroup s = _ from unlessFaulted_running h.runs, complete, complete, htext]

/-- A ready decoder runs its group. -/
theorem exec_decGroup_ready {s : State} (h : GroupReady s) (he : s.st.isEncoder = false) :
    exec .decGroup s = complete (decodeGroup s.hPos) s := by
  have hdirection : decoderOnly s = .ok () s := act_demand_pos (by simp [h.active, he])
  have hready : groupReady s = .ok () s := act_demand_pos (by simp [h.lineOpen, h.noneLeft, h.inLine])
  have htext : (do decoderOnly; groupReady; let gs ← look (fun s => s.hPos); decodeGroup gs : Act Unit) s =
      decodeGroup s.hPos s := by
    rw [act_bind_ok hdirection, act_bind_ok hready, act_bind_ok (act_look _ s)]
  rw [show exec .decGroup s = _ from unlessFaulted_running h.runs, complete, complete, htext]

/-- A piece that cannot answer ends its command in a fault. -/
theorem complete_raises {m : Act Unit} {s : State} {E : Raise → State → Prop} (h : Ends m s (fun _ _ => False) E) :
    ∃ r t, complete m s = .next (t.enterFault r) ∧ E r t := by
  rcases complete_cases m s with ⟨t, hm, -⟩ | ⟨r, t, hm, hc⟩
  · exact (h.answers () t hm).elim
  · exact ⟨r, t, hc, h.raises r t hm⟩

/-! ### The encoder -/

/-- What the flatness fields and the units of a group write: `cur`, the scratch and the flatness registers, and the
streams. -/
def GroupBegun (s t : State) : Prop :=
  ∃ cur scratch flat io, t = { s with cur := cur, scratch := scratch, flat := flat, io := io }

theorem GroupBegun.coded {s t u : State} (h : GroupBegun s t) (k : Coded t u) : GroupBegun s u := by
  obtain ⟨_, _, flat, io, rfl⟩ := h
  obtain ⟨cur, scratch, rfl⟩ := k.frame
  exact ⟨cur, scratch, flat, io, rfl⟩

theorem unaryBits_length_pos {v vmax : Nat} (h : 1 ≤ vmax) : 0 < (unaryBits v vmax).length := by
  rcases Nat.eq_zero_or_pos v with rfl | hv
  · have hmax : 0 < vmax := h
    simp [unaryBits, hmax]
  · simp [unaryBits, hv]

/-- The first call of either kind of group sends a unary code of luma, of which a full sink takes no bit. -/
theorem encEmit_full {s : State} (h : s.io.sinkRoom.get .i0 = some 0) (gs : Nat) (us : Tri UnitCode) (d : Option (Tri Nat)) :
    encEmit gs us d s = .error (raising .bitio 0) s := by
  have hcode (v : Nat) : putList .i0 (unaryBits v (prefixMax .i0 us.a0.plan)) s = .error (raising .bitio 0) s :=
    putList_full h (unaryBits_length_pos (by simp [prefixMax]))
  cases d with
  | none => exact (act_bind_ok (act_look _ s)).trans (act_bind_error (act_bind_error (hcode _)))
  | some ks => exact (act_bind_ok (act_look _ s)).trans (act_bind_error (act_bind_error (hcode _)))

/-- With every original written, a group of a full luma sink raises `F_BITIO` of substream 0 after its units. -/
theorem encodeUnits_full {s : State} {o : Cpnt → Nat → Sample} (h : GroupReady s) (ho : s.origIs o)
    (hroom : s.io.sinkRoom.get .i0 = some 0) (nf : Nat) :
    Ends (codeUnits s.hPos >>= encodeTail s.hPos nf) s (fun _ _ => False) fun r t =>
      r = raising .bitio 0 ∧ Coded s t := by
  have hgap : firstGap (groupGaps s) = none := by
    simp [groupGaps, firstGap_eq_none, unitGaps, origGap_of_origIs ho h.width_pos]
  have hunits := codeUnits_codes h
  rw [hgap] at hunits
  refine ends_bind ⟨fun us t ht => ?_, fun r t ht => ?_⟩
  · obtain ⟨-, hc, hw⟩ := hunits.answers us t ht
    have ht' := hc.groupReady h
    have hstore : t.origIs o ∧ t.io = s.io := by
      obtain ⟨_, _, rfl⟩ := hc.frame
      exact ⟨ho, rfl⟩
    have hdecide := ichDecision_answers ht' hstore.1 (hc.hPos ▸ hw) us
    rw [hc.hPos] at hdecide
    obtain ⟨d, hd, -⟩ := hdecide
    have hemit := encEmit_full (hstore.2 ▸ hroom) s.hPos us d
    exact ends_error ((act_bind_ok (act_sense_ok hd)).trans (act_bind_error hemit)) ⟨rfl, hc⟩
  · obtain ⟨info, hinfo, -⟩ := hunits.raises r t ht
    cases hinfo

theorem GroupReady.withFlatIo {s : State} (h : GroupReady s) (flat : FlatRegs) (io : BitIo) :
    GroupReady { s with flat := flat, io := io } :=
  { h with legal := h.legal.of_mem rfl }

theorem flatSkipped_groupReady {s : State} (h : GroupReady s) : GroupReady s.flatSkipped := h.withFlatIo _ s.io

/-- The detection has no gap where every original is written. -/
theorem flatGap_of_origIs {s : State} {o : Cpnt → Nat → Sample} (ho : s.origIs o) (hw : 1 ≤ s.width) (gs qp : Nat)
    (l : List Nat) : flatGap s gs qp l = none := by
  induction l with
  | nil => rfl
  | cons p l ih =>
    by_cases hend : s.width ≤ gs + 12 + 3 * p
    · rw [flatGap, if_pos hend]
    · have hgaps : firstGap (Idx3.all.flatMap (candidateGaps s (gs + 12 + 3 * p))) = none := by
        simp [firstGap_eq_none, candidateGaps, origGap_of_origIs ho hw]
      rw [flatGap_cons s gs qp p l (Nat.not_le.1 hend), hgaps, ih]
      simp

/-- With every original written, an encoder whose luma sink is full raises `F_BITIO` of substream 0, with no bit sent. -/
theorem encodeGroup_full {s : State} {o : Cpnt → Nat → Sample} (h : GroupReady s) (ho : s.origIs o)
    (hroom : s.io.sinkRoom.get .i0 = some 0) :
    Ends (encodeGroup s.hPos) s (fun _ _ => False) fun r t =>
      r = raising .bitio 0 ∧ GroupBegun s t ∧ t.io = s.io := by
  rw [encodeGroup_eq]
  by_cases hp : flatPresent s
  · have hdetect := flatScan_reads h.legal s.hPos h.masterQp [0, 1, 2, 3]
    rw [flatGap_of_origIs ho h.width_pos] at hdetect
    obtain ⟨f, hf, -⟩ := hdetect
    have hflat : encFlat s.hPos s = .error (raising .bitio 0) s :=
      (encFlat_present hp s.hPos).trans
        ((act_bind_ok (act_sense_ok hf)).trans (act_bind_error (putFlatFields_full hroom f)))
    exact ends_error (act_bind_error hflat) ⟨rfl, ⟨s.cur, s.scratch, s.flat, s.io, rfl⟩, rfl⟩
  · refine ends_bind (ends_ok (encFlat_absent hp s.hPos) ?_)
    have hunits := encodeUnits_full (flatSkipped_groupReady h) ho hroom 0
    refine ⟨hunits.answers, fun r t ht => ?_⟩
    obtain ⟨hr, hc⟩ := hunits.raises r t ht
    refine ⟨hr, GroupBegun.coded ⟨s.cur, s.scratch, _, s.io, rfl⟩ hc, ?_⟩
    obtain ⟨_, _, rfl⟩ := hc.frame
    rfl

/-- What the flatness fields of a group leave: their bits are those of the record (44_entropy.md R370 step 1). -/
structure FlatSent (s : State) (flat : FlatRegs) (io : BitIo) : Prop where
  source : io.source = s.io.source
  chunkOut : io.chunkOut = s.io.chunkOut
  sink : ∀ ss, io.sink.get ss =
    s.io.sink.get ss ++ if ss = .i0 then (if flatPresent s then recordWire flat.flatNext else []) else []

/-- Without a gap in the next supergroup, and with room for four bits, the flatness fields are sent. -/
theorem encFlat_sends {s : State} (h : GroupReady s) (hgap : flatPresent s → flatGap s s.hPos s.masterQp [0, 1, 2, 3] = none)
    (hroom : ∀ r, s.io.sinkRoom.get .i0 = some r → 4 ≤ r) :
    ∃ n flat io, encFlat s.hPos s = .ok n { s with flat := flat, io := io } ∧ FlatSent s flat io := by
  by_cases hp : flatPresent s
  · have hdetect := flatScan_reads h.legal s.hPos h.masterQp [0, 1, 2, 3]
    rw [hgap hp] at hdetect
    obtain ⟨f, hf, -⟩ := hdetect
    obtain ⟨n, hput⟩ := putFlatFields_fits hroom f
    refine ⟨n, { s.flat with flatNext := f }, s.io.put .i0 (recordWire f), ?_, rfl, rfl, fun ss => ?_⟩
    · rw [encFlat_present hp, act_bind_ok (act_sense_ok hf), act_bind_ok hput]
      rfl
    · rw [if_pos hp, BitIo.put, Tri.get_set]
      split <;> simp [*]
  · refine ⟨0, _, s.io, encFlat_absent hp s.hPos, rfl, rfl, fun ss => ?_⟩
    simp [if_neg hp]

/-- The encoder raises the first gap of its group's originals, after the flatness fields (44_entropy.md R370). -/
theorem encodeGroup_gap {s : State} {info : Int} (h : GroupReady s)
    (hgap : flatPresent s → flatGap s s.hPos s.masterQp [0, 1, 2, 3] = none)
    (hroom : ∀ r, s.io.sinkRoom.get .i0 = some r → 4 ≤ r) (hgroup : firstGap (groupGaps s) = some info) :
    Ends (encodeGroup s.hPos) s (fun _ _ => False) fun r t =>
      r = raising .uninit info ∧ GroupBegun s t ∧ FlatSent s t.flat t.io := by
  obtain ⟨n, flat, io, hflat, hsent⟩ := encFlat_sends h hgap hroom
  have hunits : Codes (codeUnits s.hPos) { s with flat := flat, io := io } (firstGap (groupGaps s)) _ :=
    codeUnits_codes (h.withFlatIo flat io)
  rw [hgroup] at hunits
  rw [encodeGroup_eq]
  refine ends_bind (ends_ok hflat (ends_bind ⟨fun us t ht => ?_, fun r t ht => ?_⟩))
  · obtain ⟨hnone, -⟩ := hunits.answers us t ht
    cases hnone
  · obtain ⟨info', hinfo, hr, hc⟩ := hunits.raises r t ht
    cases hinfo
    refine ⟨hr, GroupBegun.coded ⟨s.cur, s.scratch, flat, io, rfl⟩ hc, ?_⟩
    obtain ⟨_, _, rfl⟩ := hc.frame
    exact hsent

/-- The encoder raises the first gap of the next supergroup before it does anything else (44_entropy.md R370). -/
theorem exec_encGroup_flatGap {s : State} {info : Int} (h : GroupReady s) (he : s.st.isEncoder = true)
    (hp : flatPresent s) (hgap : flatGap s s.hPos s.masterQp [0, 1, 2, 3] = some info) :
    exec .encGroup s = .next (s.afterFault .uninit info) := by
  have hdetect := flatScan_reads h.legal s.hPos h.masterQp [0, 1, 2, 3]
  rw [hgap] at hdetect
  have hflat : encFlat s.hPos s = .error (raising .uninit info) s :=
    (encFlat_present hp s.hPos).trans (act_bind_error (act_sense_error hdetect))
  rw [exec_encGroup_ready h he, encodeGroup_eq, complete_error (act_bind_error hflat), enterFault_raising]

/-- A fault in a group that has begun leaves all but what the group had written. -/
theorem GroupBegun.afterFault {s t : State} (h : GroupBegun s t) (k : FaultKind) (info : Int) :
    (t.afterFault k info).st = (s.afterFault k info).st ∧ (t.afterFault k info).port = s.port ∧
      (t.afterFault k info).mode.groupPending = false ∧ (t.afterFault k info).mode.lineOpen = false ∧
      (t.afterFault k info).pos = s.pos ∧ (t.afterFault k info).size = s.size ∧ (t.afterFault k info).ich = s.ich ∧
      (t.afterFault k info).prev = s.prev ∧ (t.afterFault k info).orig = s.orig := by
  obtain ⟨_, _, _, _, rfl⟩ := h
  exact ⟨rfl, rfl, rfl, rfl, rfl, rfl, rfl, rfl, rfl⟩

/-! ### The decoder -/

/-- A decoder whose luma source is empty raises `F_BITIO` of substream 0: at the flatness fields, or at the unary
code after them. -/
theorem exec_decGroup_empty {s : State} (h : GroupReady s) (he : s.st.isEncoder = false)
    (hempty : s.io.source.get .i0 = []) :
    exec .decGroup s =
      .next ((if flatPresent s then s else s.flatSkipped).afterFault .bitio 0) := by
  have short {t : State} (ht : t.io = s.io) {n : Nat} : getBits .i0 (n + 1) t = .error (raising .bitio 0) t :=
    getBits_short (by rw [ht, hempty]; exact Nat.succ_pos n)
  rw [exec_decGroup_ready h he, ← enterFault_raising]
  refine complete_error ?_
  by_cases hp : flatPresent s
  · rw [if_pos hp]
    exact act_bind_error ((decFlat_present hp).trans (act_bind_error (act_bind_error (short rfl))))
  · rw [if_neg hp]
    have hplans := (flatSkipped_groupReady h).unitPlans_eq
    refine (act_bind_ok (decFlat_absent hp)).trans ((act_bind_ok (act_sense_ok hplans)).trans ?_)
    exact act_bind_error ((act_bind_ok (act_look _ _)).trans (act_bind_error (act_bind_error
      (short (t := s.flatSkipped) rfl))))

end Sys2Proof.Machine

namespace Sys2Proof.Machine

/-! ### ICH indices that name no valid entry -/

/-- Present flatness fields take four bits of the source, or the flag alone (30_encoding.md R151). -/
theorem getFlatFields_reads {s : State} {bs : List Bool} (hsource : s.io.source.get .i0 = bs) (hlen : 4 ≤ bs.length) :
    ∃ f, getFlatFields s =
      .ok f (s.withSource .i0 (if bs.head? = some true then bs.drop 4 else bs.drop 1)) := by
  match bs, hlen with
  | b0 :: b1 :: b2 :: b3 :: rest, _ =>
    have hflag := getBits_front (n := 1) (bs := [b0]) (rest := b1 :: b2 :: b3 :: rest) hsource rfl
    rw [ofBits_singleton] at hflag
    cases b0 with
    | false => exact ⟨_, act_bind_ok hflag⟩
    | true =>
      have hpos := getBits_front (s := s.withSource .i0 (b1 :: b2 :: b3 :: rest)) (n := 2) (bs := [b1, b2])
        (withSource_source s .i0 _) rfl
      have htype := getBits_front (s := s.withSource .i0 (b3 :: rest)) (n := 1) (bs := [b3])
        (withSource_source s .i0 _) rfl
      rw [withSource_withSource] at hpos htype
      refine ⟨(⟨true, ofBits [b3] == 1, BitVec.ofNat 2 (ofBits [b1, b2])⟩, 4), (act_bind_ok hflag).trans ?_⟩
      rw [if_pos Bool.toNat_true, act_bind_ok hpos, act_bind_ok htype]
      rfl

/-- The flatness fields are read off the luma source, which then holds `lumaBits` (44_entropy.md R375 step 1). -/
theorem decFlat_reads {s : State} (hlen : 4 ≤ (s.io.source.get .i0).length) :
    ∃ n flat, decFlat s = .ok n ({ s with flat := flat }.withSource .i0 (lumaBits s)) := by
  by_cases hp : flatPresent s
  · obtain ⟨f, hf⟩ := getFlatFields_reads rfl hlen
    refine ⟨f.2, { s.flat with flatNext := f.1 }, ?_⟩
    rw [decFlat_present hp, act_bind_ok hf, lumaBits, if_pos hp]
    rfl
  · refine ⟨0, s.flatSkipped.flat, ?_⟩
    rw [decFlat_absent hp, lumaBits, if_neg hp]
    exact congrArg _ (withSource_self s.flatSkipped .i0).symm

/-- The value an escape is read as is the escape's (30_encoding.md R153). -/
theorem isEscape_of_escape (l : Bool) (u : UnitPlan) : isEscape l u (if l = true then 0 else prefixMax .i0 u) = true := by
  cases l <;> simp [isEscape]

/-- The unary code of an ICH group is read as the escape (30_encoding.md R153). -/
theorem getUnary_escape {s t : State} (h : escapeAhead s)
    (hsource : t.io.source.get .i0 = lumaBits s) :
    getUnary .i0 (lumaMax s) t =
      .ok (if s.mode.ichSelected = true then 0 else lumaMax s)
        (t.withSource .i0 ((lumaBits s).drop (escapeLength s))) := by
  unfold escapeAhead at h
  unfold escapeLength
  by_cases hich : s.mode.ichSelected = true
  · rw [if_pos hich] at h ⊢
    obtain ⟨rest, hrest⟩ := List.head?_eq_some_iff.1 h
    rw [if_pos hich, hrest]
    exact getUnary_one (hsource.trans hrest)
  · rw [if_neg hich] at h ⊢
    rw [if_neg hich]
    refine getUnary_zeros ?_
    rw [hsource, ← h, List.take_append_drop]

/-- Reading ICH indices writes them and takes bits off the source. -/
def IndicesRead (s t : State) : Prop :=
  ∃ flat io idx, t = { s with flat := flat, io := io, mode := { s.mode with ichIdx := idx } }

theorem IndicesRead.trans {s t u : State} (h : IndicesRead s t) (k : IndicesRead t u) : IndicesRead s u := by
  obtain ⟨_, _, _, rfl⟩ := h
  obtain ⟨flat, io, idx, rfl⟩ := k
  exact ⟨flat, io, idx, rfl⟩

theorem IndicesRead.ichValidAt {s t : State} (h : IndicesRead s t) (k : Nat) : ichValidAt t k = ichValidAt s k := by
  obtain ⟨_, _, _, rfl⟩ := h
  rfl

/-- The value of index i where the bits `bs` stand before the indices. -/
def indexIn (bs : List Bool) (i : Nat) : Nat := ofBits ((bs.drop (5 * i)).take 5)

theorem ichIndexAhead_eq (s : State) (i : Pix) :
    ichIndexAhead s i = indexIn ((lumaBits s).drop (escapeLength s)) i.toNat := rfl

/-- An index of five bits is read, and then raises `F_BITSTREAM` where it names no valid entry (42_ich.md R275). -/
theorem getIchIdx_reads {s : State} {bs : List Bool} (i : Pix) (hsource : s.io.source.get .i0 = bs.drop (5 * i.toNat))
    (hlen : 5 * i.toNat + 5 ≤ bs.length) :
    (ichValidAt s (indexIn bs i.toNat) = false →
      ∃ t, getIchIdx i s = .error (raising .bitstream (indexIn bs i.toNat)) t ∧ IndicesRead s t) ∧
    (ichValidAt s (indexIn bs i.toNat) = true →
      ∃ k t, getIchIdx i s = .ok k t ∧ IndicesRead s t ∧ t.io.source.get .i0 = bs.drop (5 * (i.toNat + 1))) := by
  have hsplit : s.io.source.get .i0 = (bs.drop (5 * i.toNat)).take 5 ++ bs.drop (5 * (i.toNat + 1)) := by
    rw [hsource, Nat.mul_add, Nat.mul_one, ← List.drop_drop, List.take_append_drop]
  have hfive : ((bs.drop (5 * i.toNat)).take 5).length = 5 := by
    simp
    omega
  have hbits : getBits ichIndexSubstream ichIndexBits s =
      .ok (indexIn bs i.toNat) (s.withSource .i0 (bs.drop (5 * (i.toNat + 1)))) := getBits_front hsplit hfive
  refine ⟨fun hno => ⟨_, (act_bind_ok hbits).trans (act_bind_error (act_demand_neg hno)), ⟨s.flat, _, s.mode.ichIdx, rfl⟩⟩,
    fun hyes => ⟨_, _, (act_bind_ok hbits).trans ((act_bind_ok (act_demand_pos hyes)).trans rfl), ⟨s.flat, _, _, rfl⟩, ?_⟩⟩
  exact withSource_source s .i0 _

/-- The first index that names no valid entry ends the reading (44_entropy.md R375). -/
theorem getIchGroup_invalid {s : State} {bs : List Bool} (gs : Nat) (i : Pix) (hsource : s.io.source.get .i0 = bs)
    (hlen : 15 ≤ bs.length) (hbefore : ∀ j : Pix, j.toNat < i.toNat → ichValidAt s (indexIn bs j.toNat) = true)
    (hinvalid : ichValidAt s (indexIn bs i.toNat) = false) :
    ∃ t, getIchGroup gs s = .error (raising .bitstream (indexIn bs i.toNat)) t ∧ IndicesRead s t := by
  cases i with
  | i0 =>
    obtain ⟨t, ht, hframe⟩ := (getIchIdx_reads .i0 hsource (by simp; omega)).1 hinvalid
    exact ⟨t, act_bind_error ht, hframe⟩
  | i1 =>
    obtain ⟨k0, t0, ht0, hframe0, hsource0⟩ :=
      (getIchIdx_reads .i0 hsource (by simp; omega)).2 (hbefore .i0 (by decide))
    obtain ⟨t, ht, hframe⟩ := (getIchIdx_reads .i1 hsource0 (by simp; omega)).1 (hframe0.ichValidAt _ ▸ hinvalid)
    exact ⟨t, (act_bind_ok ht0).trans (act_bind_error ht), hframe0.trans hframe⟩
  | i2 =>
    obtain ⟨k0, t0, ht0, hframe0, hsource0⟩ :=
      (getIchIdx_reads .i0 hsource (by simp; omega)).2 (hbefore .i0 (by decide))
    obtain ⟨k1, t1, ht1, hframe1, hsource1⟩ := (getIchIdx_reads .i1 hsource0 (by simp; omega)).2
      (hframe0.ichValidAt _ ▸ hbefore .i1 (by decide))
    have hframe01 := hframe0.trans hframe1
    obtain ⟨t, ht, hframe⟩ := (getIchIdx_reads .i2 hsource1 (by simp; omega)).1 (hframe01.ichValidAt _ ▸ hinvalid)
    exact ⟨t, (act_bind_ok ht0).trans ((act_bind_ok ht1).trans (act_bind_error ht)), hframe01.trans hframe⟩

theorem lumaMax_le (s : State) : lumaMax s ≤ 17 := by
  have := depth_le s .i0
  unfold lumaMax unitWidth
  omega

/-- The flatness fields leave enough luma bits for the escape and three indices. -/
theorem lumaBits_length_ge {s : State} (h : 64 ≤ (s.io.source.get .i0).length) : 60 ≤ (lumaBits s).length := by
  unfold lumaBits
  dsimp only
  split_ifs
  · rw [List.length_drop]
    omega
  · rw [List.length_drop]
    omega
  · omega

/-- A decoder that reads an ICH index naming no valid entry, those before it being valid, raises `F_BITSTREAM` with it. -/
theorem exec_decGroup_invalid {s : State} {i : Pix} (h : GroupReady s) (he : s.st.isEncoder = false)
    (hlen : 64 ≤ (s.io.source.get .i0).length) (hescape : escapeAhead s)
    (hbefore : ∀ j : Pix, j.toNat < i.toNat → ichValidAt s (ichIndexAhead s j) = true)
    (hinvalid : ichValidAt s (ichIndexAhead s i) = false) :
    ∃ t, exec .decGroup s = .next (t.afterFault .bitstream (ichIndexAhead s i)) ∧ IndicesRead s t := by
  have hluma := lumaBits_length_ge hlen
  have hmax := lumaMax_le s
  have hescapeLength : escapeLength s ≤ 17 := by
    unfold escapeLength
    split <;> omega
  obtain ⟨n, flat, hflat⟩ := decFlat_reads (s := s) (by omega)
  have hready : GroupReady ({ s with flat := flat }.withSource .i0 (lumaBits s)) := h.withFlatIo flat _
  have hplans := hready.unitPlans_eq
  have hcode := getUnary_escape (t := { s with flat := flat }.withSource .i0 (lumaBits s)) hescape
    (withSource_source _ _ _)
  rw [withSource_withSource] at hcode
  obtain ⟨t, ht, hframe⟩ := getIchGroup_invalid
    (s := { s with flat := flat }.withSource .i0 ((lumaBits s).drop (escapeLength s))) s.hPos i (withSource_source _ _ _)
    (by simp; omega) hbefore hinvalid
  have hread : IndicesRead s t := IndicesRead.trans ⟨flat, _, s.mode.ichIdx, rfl⟩ hframe
  refine ⟨t, ?_, hread⟩
  rw [exec_decGroup_ready h he, ← enterFault_raising, ichIndexAhead_eq]
  refine complete_error ((act_bind_ok hflat).trans ((act_bind_ok (act_sense_ok hplans)).trans (act_bind_error ?_)))
  refine (act_bind_ok (act_look _ _)).trans ((act_bind_ok hcode).trans ?_)
  exact (congrFun (if_pos (isEscape_of_escape _ _)) _).trans (act_bind_error ht)

/-- Settles O47: a group command raises at the first call that cannot be served, the first original not written, or the first
index that names no valid entry, and what stands after it is not done. -/
theorem groupFaults : Obligations.GroupFaults := by
  refine ⟨bitStreams_rule, fun s h he hempty => ?_, fun s o h he ho hroom => ?_,
    fun s info h he hp hgap => exec_encGroup_flatGap h he hp hgap, fun s info h he hgap hroom hgroup => ?_,
    fun s i h he hlen hescape hbefore hinvalid => ?_⟩
  · rw [exec_decGroup_empty h he hempty]
    by_cases hp : flatPresent s
    · rw [if_pos hp, if_neg fun hn => hn.2 hp]
    · simp only [hp, not_false_eq_true, and_true]
      rfl
  · obtain ⟨r, t, hexec, rfl, hbegun, hio⟩ := complete_raises (encodeGroup_full h ho hroom)
    rw [← exec_encGroup_ready h he, enterFault_raising] at hexec
    obtain ⟨st, port, pending, line, pos, size, ich, prev, orig⟩ := hbegun.afterFault .bitio 0
    exact ⟨_, hexec, st, hio, port, pending, line, pos, size, ich, prev, orig⟩
  · obtain ⟨r, t, hexec, rfl, hbegun, hsent⟩ := complete_raises (encodeGroup_gap h hgap hroom hgroup)
    rw [← exec_encGroup_ready h he, enterFault_raising] at hexec
    obtain ⟨st, port, pending, line, pos, size, ich, prev, orig⟩ := hbegun.afterFault .uninit info
    refine ⟨_, hexec, st, port, pending, line, pos, size, ich, prev, orig, hsent.source, hsent.chunkOut, fun ss => ?_⟩
    rw [flatWire_eq]
    exact hsent.sink ss
  · obtain ⟨t, hexec, _, _, _, rfl⟩ := exec_decGroup_invalid h he (hlen .i0) hescape hbefore hinvalid
    exact ⟨_, hexec, rfl, rfl, rfl, rfl, rfl, rfl, rfl, rfl, rfl⟩

end Sys2Proof.Machine

namespace Sys2Proof

open Laws.EncodedOp

/-! ## The command word

The word of a command and its fields are one thing: `commandFields` gives the fields of a command, a word decodes to a
command exactly when its fields are that command's, and a word with clear reserved bits is put together from its fields. -/

/-! ### The fields of a command -/

/-- The `cpnt` field of a command's word, 0 where the command does not use it (30_encoding.md R134). -/
def cpntField : Instr → Nat
  | .origWr c _ | .pixRd c _ | .mapq c | .recon c | .pred c _ _ | .midpoint c _ | .ichLookup c _ | .psizeAdj c => c.toNat
  | _ => 0

/-- The `sel` field of a command's word, 0 where the command does not use it (30_encoding.md R134). -/
def selField : Instr → Nat
  | .sliceStart d => d.toNat
  | .pred _ p _ => p.toNat
  | _ => 0

/-- The `idx` field of a command's word, 0 where the command does not use it (30_encoding.md R134). -/
def idxField : Instr → Nat
  | .cfgWr k | .origWr _ k | .pixRd _ k | .regRd k | .pred _ _ k | .midpoint _ k | .ichLookup _ k | .ichTest k | .ichPick k
  | .flatDetect k => k
  | _ => 0

/-- The fields of a command's word; the reserved bits are 0 (30_encoding.md R131, R134). -/
def commandFields (i : Instr) : Fields := ⟨opcodeOf i, cpntField i, selField i, 0, idxField i⟩

theorem encode_eq_wordOf (i : Instr) : encode i = wordOf (opcodeOf i) (cpntField i) (selField i) (idxField i) := by
  cases i <;> rfl

theorem opcodeOf_lt (i : Instr) : opcodeOf i < 0x18 := by cases i <;> simp [opcodeOf]

theorem cpntField_lt (i : Instr) : cpntField i < 4 := by
  cases i with
  | origWr c | pixRd c | mapq c | recon c | pred c | midpoint c | ichLookup c | psizeAdj c => exact cpnt_lt c
  | _ => exact Nat.zero_lt_succ 3

theorem selField_lt (i : Instr) : selField i < 8 := by
  cases i with
  | sliceStart d => exact (Bool.toNat_lt d).trans (by decide)
  | pred _ p => exact sel_lt p
  | _ => exact Nat.zero_lt_succ 7

/-- A command is well formed when its index fits the 16-bit field (30_encoding.md R131). -/
theorem wf_iff_idxField (i : Instr) : i.wf = true ↔ idxField i < 2 ^ 16 := by
  cases i <;> simp [Instr.wf, idxFits, idxField]

/-- The word of a well-formed command holds the command's fields (30_encoding.md R135). -/
theorem fieldsOf_encode {i : Instr} (h : i.wf = true) : fieldsOf (encode i) = commandFields i := by
  have hop := opcodeOf_lt i
  rw [encode_eq_wordOf]
  exact fieldsOf_wordOf _ _ _ _ (by omega) (cpntField_lt i) (selField_lt i) ((wf_iff_idxField i).1 h)

/-! ### The fields of a word -/

theorem fieldsOf_op (w : Word) : (fieldsOf w).op = w.toNat / 2 ^ 27 := by
  have hw := w.isLt
  simp only [fieldsOf, bitSlice]
  omega

theorem fieldsOf_idx_lt (w : Word) : (fieldsOf w).idx < 2 ^ 16 := Nat.mod_lt _ (by decide)

/-- A word whose reserved bits are 0 is the word of its fields. -/
theorem wordOf_fieldsOf {w : Word} (h : (fieldsOf w).rsv = 0) :
    wordOf (fieldsOf w).op (fieldsOf w).cpnt (fieldsOf w).sel (fieldsOf w).idx = w := by
  have hw := w.isLt
  apply BitVec.eq_of_toNat_eq
  simp only [fieldsOf, bitSlice, wordOf, BitVec.toNat_ofNat] at h ⊢
  omega

/-! ### What a form of the opcode map accepts -/

section Forms

variable {f : Fields} {i j : Instr}

theorem cpntOf_eq_some {n : Nat} {c : Cpnt} (h : cpntOf n = some c) : n = c.toNat := by
  unfold cpntOf at h
  split at h <;> cases h <;> rfl

theorem predClassOf_eq_some {n : Nat} {p : PredClass} (h : predClassOf n = some p) : n = p.toNat := by
  unfold predClassOf at h
  split at h <;> cases h <;> rfl

theorem directionOf_eq_some {n : Nat} {d : Bool} (h : directionOf n = some d) : n = d.toNat := by
  unfold directionOf at h
  split at h <;> cases h <;> rfl

theorem plainForm_eq_ok (h : plainForm f i = .ok j) : i = j ∧ f.cpnt = 0 ∧ f.sel = 0 ∧ f.idx = 0 := by
  unfold plainForm at h
  split at h
  · cases h
  · cases h
    exact ⟨rfl, by omega⟩

theorem idxForm_eq_ok {mk : Nat → Instr} (h : idxForm f mk = .ok j) : mk f.idx = j ∧ f.cpnt = 0 ∧ f.sel = 0 := by
  unfold idxForm at h
  split at h
  · cases h
  · cases h
    exact ⟨rfl, by omega⟩

theorem cpntForm_eq_ok {mk : Cpnt → Instr} (h : cpntForm f mk = .ok j) :
    ∃ c, mk c = j ∧ f.cpnt = c.toNat ∧ f.sel = 0 ∧ f.idx = 0 := by
  unfold cpntForm at h
  split at h
  · cases h
  · split at h
    · cases h
    · cases h
      exact ⟨_, rfl, cpntOf_eq_some ‹_›, by omega⟩

theorem cpntIdxForm_eq_ok {mk : Cpnt → Nat → Instr} (h : cpntIdxForm f mk = .ok j) :
    ∃ c, mk c f.idx = j ∧ f.cpnt = c.toNat ∧ f.sel = 0 := by
  unfold cpntIdxForm at h
  split at h
  · cases h
  · split at h
    · cases h
    · cases h
      exact ⟨_, rfl, cpntOf_eq_some ‹_›, by omega⟩

theorem sliceForm_eq_ok (h : sliceForm f = .ok j) :
    ∃ d, .sliceStart d = j ∧ f.sel = d.toNat ∧ f.cpnt = 0 ∧ f.idx = 0 := by
  unfold sliceForm at h
  split at h
  · cases h
  · split at h
    · cases h
    · cases h
      exact ⟨_, rfl, directionOf_eq_some ‹_›, by omega⟩

theorem predForm_eq_ok (h : predForm f = .ok j) :
    ∃ c p, .pred c p f.idx = j ∧ f.cpnt = c.toNat ∧ f.sel = p.toNat := by
  unfold predForm at h
  split at h
  · cases h
  · split at h
    · cases h
    · cases h
      exact ⟨_, _, rfl, cpntOf_eq_some ‹_›, predClassOf_eq_some ‹_›⟩

end Forms

/-! ### Decoding and encoding -/

/-- The opcode map takes the fields of every command to the command (30_encoding.md R134). -/
theorem decodeOp_commandFields (i : Instr) : decodeOp (commandFields i) = .ok i := by
  cases i with
  | sliceStart d => cases d <;> rfl
  | origWr c | pixRd c | mapq c | recon c | midpoint c | ichLookup c | psizeAdj c => cases c <;> rfl
  | pred c p => cases c <;> cases p <;> rfl
  | _ => rfl

/-- The opcode map takes no fields but those of a command to the command: an unused field has to be 0 (30_encoding.md
R132). -/
theorem fields_of_decodeOp {f : Fields} {i : Instr} (hrsv : f.rsv = 0) (h : decodeOp f = .ok i) : f = commandFields i := by
  obtain ⟨op, cpnt, sel, rsv, idx⟩ := f
  obtain rfl : rsv = 0 := hrsv
  match op, h with
  | 0x00, h | 0x02, h | 0x04, h | 0x05, h | 0x0A, h | 0x0B, h | 0x0C, h | 0x15, h | 0x16, h | 0x17, h =>
    obtain ⟨rfl, rfl, rfl, rfl⟩ := plainForm_eq_ok h
    rfl
  | 0x01, h | 0x08, h | 0x11, h | 0x12, h | 0x13, h =>
    obtain ⟨rfl, rfl, rfl⟩ := idxForm_eq_ok h
    rfl
  | 0x09, h | 0x0D, h | 0x14, h =>
    obtain ⟨c, rfl, rfl, rfl, rfl⟩ := cpntForm_eq_ok h
    rfl
  | 0x06, h | 0x07, h | 0x0F, h | 0x10, h =>
    obtain ⟨c, rfl, rfl, rfl⟩ := cpntIdxForm_eq_ok h
    rfl
  | 0x03, h =>
    obtain ⟨d, rfl, rfl, rfl, rfl⟩ := sliceForm_eq_ok h
    rfl
  | 0x0E, h =>
    obtain ⟨c, p, rfl, rfl, rfl⟩ := predForm_eq_ok h
    rfl
  | _ + 0x18, h => cases h

/-- A word decodes to a command exactly when its fields are the command's: no bit of it is ignored (30_encoding.md R131 to
R133). -/
theorem decode_eq_ok_iff {w : Word} {i : Instr} : decode w = .ok i ↔ fieldsOf w = commandFields i := by
  rw [decode]
  constructor
  · intro h
    split_ifs at h with hreserved hrsv
    exact fields_of_decodeOp (not_not.1 hrsv) h
  · intro h
    have hop : ¬ 0x18 ≤ (commandFields i).op := Nat.not_le.2 (opcodeOf_lt i)
    have hrsv : ¬ (commandFields i).rsv ≠ 0 := not_not.2 rfl
    rw [h, if_neg hop, if_neg hrsv]
    exact decodeOp_commandFields i

/-- Settles O1: the word of a well-formed command holds the command's fields, and those decode to it. -/
theorem decodeOfEncode : Obligations.DecodeOfEncode := fun _ hwf => decode_eq_ok_iff.2 (fieldsOf_encode hwf)

/-- Settles O2: a word that decodes has its command's fields, so its index fits and it is put together from them. -/
theorem encodeOfDecode : Obligations.EncodeOfDecode := by
  intro w i h
  have hfields := decode_eq_ok_iff.1 h
  have hidx := fieldsOf_idx_lt w
  have hword := wordOf_fieldsOf (w := w)
  rw [hfields] at hidx hword
  exact ⟨(wf_iff_idxField i).2 hidx, (encode_eq_wordOf i).trans (hword rfl)⟩

end Sys2Proof

namespace Sys2Proof.Machine

/-! ## The end of every command, and the step -/

/-! ### Every command answers -/

theorem complete_answers (m : Act Unit) (s : State) : ∃ t, complete m s = .next t := by
  rcases complete_cases m s with ⟨t, -, ht⟩ | ⟨r, t, -, ht⟩
  · exact ⟨t, ht⟩
  · exact ⟨t.enterFault r, ht⟩

theorem unlessFaulted_answers (m : Act Unit) (s : State) : ∃ t, unlessFaulted m s = .next t := by
  unfold unlessFaulted
  split
  · exact ⟨s, rfl⟩
  · exact complete_answers m s

/-- No command stops the model or is refused: the five that run in the halted block are run to their end, the others are
unless they are discarded (60_exceptions.md R444). -/
theorem exec_answers (i : Instr) (s : State) : ∃ t, exec i s = .next t := by
  cases i with
  | nop => exact ⟨s, rfl⟩
  | cfgWr | cfgCheck | sliceStart | regRd => exact complete_answers _ s
  | _ => exact unlessFaulted_answers _ s

/-! ### What every command leaves of the command interface -/

/-- The command queue and the command and operand ports are the same in two states; the result port may differ. -/
structure PortFrame (s t : State) : Prop where
  pending : t.pending = s.pending
  cmd : t.port.cmd = s.port.cmd
  opA : t.port.opA = s.port.opA
  opB : t.port.opB = s.port.opB

theorem PortFrame.refl (s : State) : PortFrame s s := ⟨rfl, rfl, rfl, rfl⟩

theorem PortFrame.trans {s t u : State} (h : PortFrame s t) (k : PortFrame t u) : PortFrame s u :=
  ⟨k.pending.trans h.pending, k.cmd.trans h.cmd, k.opA.trans h.opA, k.opB.trans h.opB⟩

theorem enterFault_portFrame (s : State) (r : Raise) : PortFrame s (s.enterFault r) := by
  rw [enterFault_eq]
  exact ⟨rfl, rfl, rfl, rfl⟩

theorem PortFrame.enterFault {s t : State} (h : PortFrame s t) (r : Raise) : PortFrame s (t.enterFault r) :=
  h.trans (enterFault_portFrame t r)

theorem lineStart_portFrame (s : State) : PortFrame s s.lineIch.openLine := by
  unfold State.openLine State.lineIch
  split <;> exact ⟨rfl, rfl, rfl, rfl⟩

theorem GroupWrites.portFrame {s t : State} (h : GroupWrites s t) : PortFrame s t := by
  induction h with
  | refl => exact .refl s
  | tail _ hw ih => exact ih.trans (by cases hw <;> exact ⟨rfl, rfl, rfl, rfl⟩)

theorem RateWrites.portFrame {s t : State} (h : RateWrites s t) : PortFrame s t := by
  induction h with
  | refl => exact .refl s
  | tail _ hw ih => exact ih.trans (by cases hw <;> exact ⟨rfl, rfl, rfl, rfl⟩)

/-- Every effect leaves the command queue and the command and operand ports (30_encoding.md R130). -/
theorem Effect.portFrame {i : Instr} {s t : State} (h : Effect i s t) : PortFrame s t := by
  cases h with
  | hold => exact .refl s
  | fault _ _ r => exact enterFault_portFrame s r
  | lineStart => exact lineStart_portFrame s
  | checkFailed r | startRefused _ r | lineEndCut r | lineEndUnfit r =>
    refine PortFrame.enterFault ?_ r
    exact ⟨rfl, rfl, rfl, rfl⟩
  | groupCut r _ writes => exact writes.portFrame.enterFault r
  | groupUnfit _ r _ writes =>
    refine PortFrame.enterFault ?_ r
    exact writes.portFrame.trans ⟨rfl, rfl, rfl, rfl⟩
  | group _ _ _ writes => exact writes.portFrame.trans ⟨rfl, rfl, rfl, rfl⟩
  | rate writes => exact writes.portFrame
  | rateCut r writes => exact writes.portFrame.enterFault r
  | _ => exact ⟨rfl, rfl, rfl, rfl⟩

/-- Settles O5: a command is run to its end or discarded, and no effect writes the queue or the command and operand
ports. -/
theorem everyCommandAnswersNext : Obligations.EveryCommandAnswersNext := by
  intro i s
  obtain ⟨t, ht⟩ := exec_answers i s
  obtain ⟨pending, cmd, opA, opB⟩ := (exec_effect i ht).portFrame
  exact ⟨t, ht, pending, cmd, opA, opB⟩

/-! ### A word that encodes no command -/

theorem runsWhileFaulted_fieldsOf (w : Word) :
    runsWhileFaulted (fieldsOf w).op = true ↔ w.toNat / 2 ^ 27 ∈ [0x00, 0x01, 0x02, 0x03, 0x08] := by
  simp [runsWhileFaulted, fieldsOf_op, or_assoc]

theorem complete_raise (k : FaultKind) (info : Int) (s : State) :
    complete (raise k info) s = .next (s.afterFault k info) := by
  rw [complete_error (act_raise k info s), enterFault_raising]

/-- A malformed word faults in a block that is not halted, whatever its opcode (30_encoding.md R132). -/
theorem illegalWord_running {s : State} (h : s.running) (w : Word) :
    illegalWord w s = .next (s.afterFault .illegalCmd w.toInt) := by
  unfold illegalWord
  split
  · exact complete_raise _ _ s
  · exact (unlessFaulted_running h).trans (complete_raise _ _ s)

/-- The halted block discards a malformed word, unless its opcode is one of the five that still run (60_exceptions.md
R444). -/
theorem illegalWord_faulted {s : State} (h : s.st.faulted = true) (w : Word) :
    illegalWord w s =
      .next
        (if w.toNat / 2 ^ 27 ∈ [0x00, 0x01, 0x02, 0x03, 0x08] then s.afterFault .illegalCmd w.toInt else s) := by
  simp only [illegalWord, runsWhileFaulted_fieldsOf]
  split
  · exact complete_raise _ _ s
  · exact unlessFaulted_faulted h

/-- Settles O4: a step presents the next command and runs the command of its word, or treats a word that encodes none as
the halted or the running block does. -/
theorem stepRunsPresentedCommand : Obligations.StepRunsPresentedCommand := by
  intro s
  refine ⟨step_idle, fun c rest hpending => ?_⟩
  have hstep := step_presented hpending
  have hillegal (e) (he : decode c.word = .error e) := hstep.trans (execWord_illegal he _)
  refine ⟨fun i hi => ?_, fun e he hrun => ?_, fun e he hhalt => ?_⟩
  · exact hstep.trans (execWord_decoded hi _)
  · exact (hillegal e he).trans (illegalWord_running (s := s.present c rest) hrun _)
  · exact (hillegal e he).trans (illegalWord_faulted (s := s.present c rest) hhalt _)

end Sys2Proof.Machine

namespace Sys2Proof.Machine

/-! ## The codes of 30_encoding.md in the bit streams -/

/-! ### The unary code -/

/-- The code of a value below the greatest ends in a 1 (30_encoding.md R150). -/
theorem unaryBits_of_lt {v vmax : Nat} (h : v < vmax) : unaryBits v vmax = List.replicate v false ++ [true] := by
  rw [unaryBits, if_pos h]

/-- The code of the greatest value has no closing 1 (30_encoding.md R150). -/
theorem unaryBits_self (v : Nat) : unaryBits v v = List.replicate v false := by
  rw [unaryBits, if_neg (Nat.lt_irrefl v), List.append_nil]

theorem unaryBits_zero_succ (n : Nat) : unaryBits 0 (n + 1) = [true] := unaryBits_of_lt n.succ_pos

theorem unaryBits_succ_succ (v n : Nat) : unaryBits (v + 1) (n + 1) = false :: unaryBits v n := by
  simp [unaryBits, List.replicate_succ]

/-- A unary code whose first bit is 0 is one more than the code behind that bit (30_encoding.md R150). -/
theorem getUnary_false {s t : State} {ss : Cpnt} {n v : Nat} {rest : List Bool} (h : s.io.source.get ss = false :: rest)
    (hrest : getUnary ss n (s.withSource ss rest) = .ok v t) : getUnary ss (n + 1) s = .ok (v + 1) t :=
  (act_bind_ok (getBits_front (bs := [false]) h rfl)).trans (act_bind_ok hrest)

/-- Reading a unary code from the front of a substream gives its value and takes exactly its bits (30_encoding.md R150). -/
theorem getUnary_unaryBits {s : State} {ss : Cpnt} {v vmax : Nat} {rest : List Bool} (hv : v ≤ vmax)
    (h : s.io.source.get ss = unaryBits v vmax ++ rest) : getUnary ss vmax s = .ok v (s.withSource ss rest) := by
  induction vmax generalizing s v with
  | zero =>
    obtain rfl := Nat.le_zero.1 hv
    exact getUnary_zeros h
  | succ n ih =>
    cases v with
    | zero =>
      rw [unaryBits_zero_succ] at h
      exact getUnary_one h
    | succ v =>
      rw [unaryBits_succ_succ] at h
      have hrest := ih (Nat.le_of_succ_le_succ hv) (withSource_source s ss _)
      rw [withSource_withSource] at hrest
      exact getUnary_false h hrest

/-- Settles O42: the closing 1 is there exactly below the greatest value, and the reading is by induction on that value. -/
theorem unaryRule : Obligations.UnaryRule := by
  intro s ss v vmax rest hv h
  refine ⟨fun hlt => ?_, fun heq => ?_, getUnary_unaryBits hv h⟩
  · simp [unaryBits_of_lt hlt]
  · subst heq
    simp [unaryBits_self]

/-! ### The values of a unit's unary code -/

section UnitValues

variable {c : Cpnt} {u : UnitPlan} {n : Nat}

theorem prefixMax_luma (u : UnitPlan) : prefixMax .i0 u = u.m - u.p + 1 := rfl

theorem prefixMax_chroma (hc : c ≠ .i0) (u : UnitPlan) : prefixMax c u = u.m - u.p := if_neg hc

theorem prefixValue_luma (l : Bool) (u : UnitPlan) (n : Nat) : prefixValue .i0 l u n = n - u.p + l.toNat := rfl

theorem prefixValue_chroma (hc : c ≠ .i0) (l : Bool) (u : UnitPlan) (n : Nat) : prefixValue c l u n = n - u.p := if_neg hc

/-- A size between the predicted and the greatest has a value in the component's alphabet (30_encoding.md R152). -/
theorem prefixValue_le (c : Cpnt) (l : Bool) (h : n ≤ u.m) : prefixValue c l u n ≤ prefixMax c u := by
  have hl := l.toNat_le
  by_cases hc : c = .i0
  · subst hc
    rw [prefixValue_luma, prefixMax_luma]
    omega
  · rw [prefixValue_chroma hc, prefixMax_chroma hc]
    omega

/-- The value sent for a size reads back as the size (30_encoding.md R153). -/
theorem sizeOfPrefix_prefixValue (c : Cpnt) (l : Bool) (h : u.p ≤ n) : sizeOfPrefix c l u (prefixValue c l u n) = n := by
  unfold sizeOfPrefix
  split_ifs with hc
  · subst hc
    rw [prefixValue_luma]
    omega
  · rw [prefixValue_chroma hc]
    omega

/-- The luma value of a unit is not the escape: after an ICH group the escape is 0 and a unit's value is not, after any
other the escape is the greatest value, one above a unit's (30_encoding.md R153). -/
theorem isEscape_prefixValue (l : Bool) (h : n ≤ u.m) : isEscape l u (prefixValue .i0 l u n) = false := by
  rw [prefixValue_luma]
  cases l with
  | true => simp [isEscape]
  | false =>
    simp only [isEscape, prefixMax_luma, Bool.toNat_false, Bool.false_eq_true, if_false, beq_eq_false_iff_ne]
    omega

theorem escapeValue_le (l : Bool) (u : UnitPlan) : escapeValue l u ≤ prefixMax .i0 u := by
  cases l with
  | true => exact Nat.zero_le _
  | false => exact le_rfl

theorem isEscape_escapeValue (l : Bool) (u : UnitPlan) : isEscape l u (escapeValue l u) = true :=
  isEscape_of_escape l u

end UnitValues

/-- Settles O43: each clause is one of the rules of a unit's values above. -/
theorem prefixValuesReadBack : Obligations.PrefixValuesReadBack := by
  intro c l u n _ hp hm
  refine ⟨prefixValue_le c l hm, sizeOfPrefix_prefixValue c l hp, fun hc => ?_, escapeValue_le l u,
    isEscape_escapeValue l u, prefixMax_luma u, prefixMax_chroma (by decide) u, prefixMax_chroma (by decide) u⟩
  subst hc
  exact isEscape_prefixValue l hm

/-! ### Residuals -/

/-- A residual is 0 when it is sent in no bits (41_quantizer.md R238). -/
theorem eq_zero_of_residualSize {e : Int} (h : residualSize e = 0) : e = 0 := by
  simp only [residualSize] at h
  split_ifs at h with hzero
  exact hzero

/-- A residual lies in the two's complement range of its size, and of every greater one (41_quantizer.md R238). -/
theorem residual_range {e : Int} {n : Nat} (h : residualSize e ≤ n + 1) : -2 ^ n ≤ e ∧ e < 2 ^ n := by
  have hpow : (0 : Int) < 2 ^ n := by positivity
  have hmagnitude {m : Nat} (hm : m ≠ 0) (hlog : Nat.log2 m + 2 ≤ n + 1) : (m : Int) < 2 ^ n := by
    exact_mod_cast (Nat.log2_lt hm).1 (by omega : Nat.log2 m < n)
  simp only [residualSize] at h
  split_ifs at h with hzero hsign hone hone
  · omega
  · omega
  · have := hmagnitude hone h
    omega
  · omega
  · have := hmagnitude hone h
    omega

/-- Sign extension of n + 1 bits, with the sign bit read off the value (00_scope.md R11). -/
theorem sext_succ (n v : Nat) : sext (n + 1) v = if (v : Int) < 2 ^ n then (v : Int) else (v : Int) - 2 ^ (n + 1) := by
  have hcast : (v : Int) < 2 ^ n ↔ v < 2 ^ n := by norm_cast
  simp only [sext, hcast, Nat.add_sub_cancel, n.succ_ne_zero, if_false]

/-- The low bits of a value in the two's complement range sign-extend to the value (00_scope.md R11, 20_memory.md R106). -/
theorem sext_emod {e : Int} {n : Nat} (low : -2 ^ n ≤ e) (high : e < 2 ^ n) :
    sext (n + 1) (e % 2 ^ (n + 1)).toNat = e := by
  have hdouble : (2 : Int) ^ (n + 1) = 2 * 2 ^ n := pow_succ' 2 n
  have hrange : (0 : Int) ≤ e % 2 ^ (n + 1) := Int.emod_nonneg _ (by positivity)
  have hvalue : e % 2 ^ (n + 1) = if 0 ≤ e then e else e + 2 ^ (n + 1) := by
    split_ifs with hsign
    · exact Int.emod_eq_of_lt hsign (by omega)
    · rw [← Int.add_emod_right, Int.emod_eq_of_lt (by omega) (by omega)]
  rw [sext_succ, Int.toNat_of_nonneg hrange, hvalue]
  split_ifs <;> omega

/-- The low bits of a residual in at least its size sign-extend to it; no bits give 0 (44_entropy.md R375). -/
theorem sext_residual {e : Int} {n : Nat} (h : residualSize e ≤ n) : sext n (e % 2 ^ n).toNat = e := by
  cases n with
  | zero => exact (eq_zero_of_residualSize (Nat.le_zero.1 h)).symm
  | succ n =>
    obtain ⟨low, high⟩ := residual_range h
    exact sext_emod low high

/-- Settles O44: the bits read are the low bits that were sent, and they sign-extend to the residual. -/
theorem residualReadsBack : Obligations.ResidualReadsBack := by
  intro s ss e n rest hsize hsource
  have hfits : (e % 2 ^ n).toNat < 2 ^ n := by
    have := Int.emod_lt_of_pos e (by positivity : (0 : Int) < 2 ^ n)
    zify
    omega
  have hbits := getBits_front hsource (toBits_length n _)
  rw [ofBits_toBits, Nat.mod_eq_of_lt hfits] at hbits
  refine (act_bind_ok hbits).trans ?_
  rw [sext_residual hsize]
  rfl

end Sys2Proof.Machine

namespace Sys2Proof.Machine

/-! ## Block prediction off unless enabled, and vectors from the candidate list -/

/-! ### The search's choice -/

/-- The candidate vectors are the distances 3 to 10 (40_prediction.md R200). -/
theorem mem_bpCandidates {v : Nat} : v ∈ bpCandidates ↔ 3 ≤ v ∧ v ≤ 10 := by
  simp only [bpCandidates, List.mem_cons, List.not_mem_nil, or_false]
  omega

/-- The best candidate is one of those compared. -/
theorem bestCandidate_mem {l : List (Nat × Nat)} (h : l ≠ []) : bestCandidate l ∈ l := by
  induction l with
  | nil => exact absurd rfl h
  | cons x l ih =>
    cases l with
    | nil => exact List.mem_cons_self
    | cons y rest =>
      rw [bestCandidate]
      split
      · exact List.mem_cons_of_mem x (ih (List.cons_ne_nil y rest))
      · exact List.mem_cons_self

/-- Every vector whose window cost the search compares is a candidate (40_prediction.md R202). -/
theorem fst_mem_bpCandidates {w : Tri BpCost} {n : Nat} {p : Nat × Nat} (h : p ∈ bpCandidateCosts w n) :
    p.1 ∈ bpCandidates := by
  obtain ⟨j, hj, rfl⟩ := List.mem_map.1 h
  dsimp only
  rw [List.getD_eq_getElem _ _ (List.mem_range.1 hj)]
  exact List.getElem_mem _

/-- The vector the search chooses is a candidate. -/
theorem bestCandidate_range (w : Tri BpCost) (n : Nat) :
    3 ≤ (bestCandidate (bpCandidateCosts w n)).1 ∧ (bestCandidate (bpCandidateCosts w n)).1 ≤ 10 :=
  mem_bpCandidates.1 (fst_mem_bpCandidates (bestCandidate_mem (by simp [bpCandidateCosts, bpCandidates])))

/-- What the search writes for its group: a class that is BP only when the configuration enables it, and a candidate vector;
the current line's history stays (40_prediction.md R191, R202). -/
theorem bpAdvance_history (s : State) (g : Nat) (new : BpCost) (edge : Bool) :
    ∃ (p : PredClass) (v : BitVec 5), (p = .bp → s.cfg .blockPredEnable = 1) ∧ (3 ≤ v.toNat ∧ v.toNat ≤ 10) ∧
      (bpAdvance s g new edge).ptypeNext = listSet .left s.bp.ptypeNext g p ∧
      (bpAdvance s g new edge).bpVecNext = listSet 0 s.bp.bpVecNext g v ∧
      (bpAdvance s g new edge).ptypeCur = s.bp.ptypeCur ∧ (bpAdvance s g new edge).bpVecCur = s.bp.bpVecCur := by
  refine ⟨_, _, fun hp => ?_, ?_, rfl, rfl, rfl, rfl⟩
  · have useBp := (show PredClass.bp ≠ .map by decide).ite_eq_left_iff.1 hp
    exact (cfgFlag_eq s _).1 useBp.1
  · obtain ⟨low, high⟩ := bestCandidate_range ⟨new, s.bp.window.a0, s.bp.window.a1⟩
      (min bpWindowGroups (s.bp.bpGroupsSeen.toNat + 1))
    rw [BitVec.toNat_ofNat, Nat.mod_eq_of_lt (by omega)]
    exact ⟨low, high⟩

/-! ### The invariant -/

theorem BlockRanges.search {s : State} (h : BlockRanges s) {gs : Nat} {b : BpRegs} (hb : bpSearchGroup s gs = .ok b) :
    BlockRanges (s.withBp b) := by
  obtain ⟨new, edge, -, rfl⟩ := bpSearchGroup_eq_ok hb
  obtain ⟨p, v, enabled, candidate, ptypeNext, bpVecNext, ptypeCur, bpVecCur⟩ := bpAdvance_history s (gs / 3) new edge
  refine ⟨fun g hg hbp => ?_, fun g hg hbp => ?_, fun g hg => ?_, fun g hg => ?_⟩
  · exact h.curClass g hg (ptypeCur ▸ hbp)
  · rw [State.withBp_bp, ptypeNext, listSet_getD] at hbp
    split at hbp
    · exact enabled hbp
    · exact h.nextClass g hg hbp
  · exact bpVecCur ▸ h.curVector g hg
  · rw [State.withBp_bp, bpVecNext, listSet_getD]
    split
    · exact candidate
    · exact h.nextVector g hg

theorem BlockRanges.groupWrites {s t : State} (h : BlockRanges s) (w : GroupWrites s t) : BlockRanges t := by
  induction w with
  | refl => exact h
  | tail _ hw ih =>
    cases hw with
    | search found => exact ih.search found
    | _ => exact { ih with }

/-- At slice start no group is block predicted and every vector is the first candidate (70_reset_and_hazards.md R484). -/
theorem sliceBegun_blockRanges (s : State) (d : Bool) : BlockRanges (s.sliceBegun d) := by
  have hcur (g : Nat) (hg : g < s.ng) : (fillPrefix s.ng .left s.bp.ptypeCur).getD g .left = PredClass.left :=
    fillPrefix_getD _ _ _ _ hg
  have hnext (g : Nat) (hg : g < s.ng) : (fillPrefix s.ng .map s.bp.ptypeNext).getD g .left = PredClass.map :=
    fillPrefix_getD _ _ _ _ hg
  have hvec (l : List (BitVec 5)) (g : Nat) (hg : g < s.ng) :
      3 ≤ ((fillPrefix s.ng 3 l).getD g 0).toNat ∧ ((fillPrefix s.ng 3 l).getD g 0).toNat ≤ 10 := by
    rw [fillPrefix_getD _ _ _ _ hg]
    decide
  exact
    { curClass := fun g hg hbp => absurd ((hcur g hg).symm.trans hbp) (by decide)
      nextClass := fun g hg hbp => absurd ((hnext g hg).symm.trans hbp) (by decide)
      curVector := hvec _
      nextVector := hvec _ }

theorem BlockRanges.lineStart {s : State} (h : BlockRanges s) : BlockRanges s.lineIch.openLine := by
  unfold State.openLine State.lineIch
  split <;> exact { h with }

/-- The next line's history becomes the current line's (45_sequencing.md R418). -/
theorem BlockRanges.lineBp {s : State} (h : BlockRanges s) : BlockRanges s.lineBp := by
  have hclass (g : Nat) (hg : g < s.ng) : s.lineBp.bp.ptypeCur.getD g .left = s.bp.ptypeNext.getD g .left :=
    copyPrefix_getD _ _ _ _ hg
  have hvector (g : Nat) (hg : g < s.ng) : s.lineBp.bp.bpVecCur.getD g 0 = s.bp.bpVecNext.getD g 0 :=
    copyPrefix_getD _ _ _ _ hg
  exact
    { h with
      curClass := fun g hg hbp => h.nextClass g hg ((hclass g hg).symm.trans hbp)
      curVector := fun g hg => (hvector g hg).symm ▸ h.nextVector g hg }

/-- The ranges hold of a state with no active slice. -/
theorem blockInv_inactive {s : State} (h : s.st.sliceActive = false) : BlockInv s := fun hactive => by
  simp [h] at hactive

/-- The ranges do not depend on what leaves the image, the history and `sliceActive`. -/
theorem BlockInv.frame {s t : State} (h : BlockInv s) (mem : t.mem = s.mem) (bp : t.bp = s.bp)
    (active : t.st.sliceActive = s.st.sliceActive) : BlockInv t := fun hactive => by
  obtain ⟨curClass, nextClass, curVector, nextVector⟩ := h (active ▸ hactive)
  have hng : t.ng = s.ng := by simp only [State.ng, State.width, State.cfg, mem]
  have hcfg : t.cfg .blockPredEnable = s.cfg .blockPredEnable := by simp only [State.cfg, mem]
  constructor <;> rw [hng, bp]
  · exact hcfg ▸ curClass
  · exact hcfg ▸ nextClass
  · exact curVector
  · exact nextVector

/-- Every effect keeps the block-prediction ranges. -/
theorem BlockInv.effect {i : Instr} {s t : State} (h : BlockInv s) (e : Effect i s t) : BlockInv t := by
  cases e with
  | hold => exact h
  | fault | checkFailed | startRefused | lineEndCut | lineEndUnfit | groupCut | groupUnfit | rateCut =>
    exact blockInv_inactive (enterFault_sliceActive _ _)
  | cfgByte _ free | cfgThresh _ _ free => exact blockInv_inactive free
  | result | checkPassed | origWr => exact h.frame rfl rfl rfl
  | sliceStart d => exact fun _ => sliceBegun_blockRanges s d
  | lineStart active => exact fun _ => (h active).lineStart
  | lineEnd active => exact fun _ => { (h active).lineBp with }
  | group _ _ _ writes ready => exact fun _ => { (h ready.active).groupWrites writes with }
  | rate writes => exact h.frame writes.controlFrame.mem writes.storageFrame.bp (by rw [writes.controlFrame.st])

/-- Settles O60: every effect of a command keeps block prediction off unless enabled, and every vector a candidate. -/
theorem blockPredictionKept : Obligations.BlockPredictionKept := fun _ _ hs h =>
  step_keeps (fun _ _ _ hs => hs.frame rfl rfl rfl) (fun _ _ _ hs e => hs.effect e) hs h

end Sys2Proof.Machine

namespace Sys2Proof.Machine

/-! ## The commands that answer a prediction -/

/-! ### The end of a command that reads -/

section Complete

variable {α : Type} {s : State}

/-- A command whose first piece answers ends as the rest does from the state that piece leaves. -/
theorem complete_bind_ok {m : Act α} {f : α → Act Unit} {a : α} {t : State} (h : m s = .ok a t) :
    complete (m >>= f) s = complete (f a) t := by
  rw [complete, complete, act_bind_ok h]

/-- A command whose first piece raises without a write faults in its own state. -/
theorem complete_bind_raise {m : Act α} {f : α → Act Unit} {k : FaultKind} {info : Int}
    (h : m s = .error (raising k info) s) : complete (m >>= f) s = .next (s.afterFault k info) := by
  rw [complete_error (act_bind_error h), enterFault_raising]

/-- A command whose value is answered without a write writes `res` alone. -/
theorem complete_writeRes {m : Act Int} {v : Int} (h : m s = .ok v s) :
    complete (m >>= fun v => writeRes v) s = .next (s.withResult v) :=
  (complete_bind_ok h).trans (complete_ok (act_writeRes v s))

/-- A demand that is met leaves the rest of the command to run (30_encoding.md R132). -/
theorem complete_demand_met {p : State → Bool} {k : FaultKind} {info : State → Int} {f : Unit → Act Unit}
    (h : p s = true) : complete (demand p k info >>= f) s = complete (f ()) s :=
  complete_bind_ok (act_demand_pos h)

theorem complete_demand_unmet {p : State → Bool} {k : FaultKind} {info : State → Int} {f : Unit → Act Unit}
    (h : p s = false) : complete (demand p k info >>= f) s = .next (s.afterFault k (info s)) :=
  complete_bind_raise (act_demand_neg h)

/-- A command that needs a slice runs on a block that has one and is not halted (30_encoding.md R134). -/
theorem unlessFaulted_needsSlice {f : Unit → Act Unit} (hrun : s.running) (hslice : s.inSlice) :
    unlessFaulted (needsSlice >>= f) s = complete (f ()) s := by
  rw [unlessFaulted_running hrun]
  refine complete_demand_met ?_
  simpa using hslice

end Complete

/-! ### Reads up to their gap -/

/-- A read with a gap raises it. -/
theorem Reads.raises {α : Type} {r : Rd α} {gap : Option Int} {P : α → Prop} {info : Int} (h : Reads r gap P)
    (hgap : gap = some info) : r = .error (raising .uninit info) := by
  subst hgap
  exact h

/-- A read of the line above raises its gap, and else answers (20_memory.md R102). -/
theorem prevRead_reads_gap (s : State) (c : Cpnt) (i : Int) : Reads (prevRead s c i) (prevGap s c i) fun _ => True := by
  unfold prevGap
  dsimp only
  split
  · rename_i hgap
    have hread : prevRead s c i = .error (uninitAt .prev c.toNat (edgeIndex s.width i)) := by
      rcases Nat.eq_zero_or_pos s.vPos with h0 | h1
      · exact prevRead_line0 h0 c i
      · rw [prevRead_below h1]
        exact readCell_none (hgap.resolve_left h1.ne')
    simp [Reads, hread, uninitAt, gapInfo, uninitSpaceCode]
  · rename_i hwritten
    obtain ⟨hline, hcell⟩ := not_or.1 hwritten
    rw [prevRead_below (Nat.pos_of_ne_zero hline)]
    exact readCell_reads (Option.isSome_iff_ne_none.2 hcell)

/-- A read of the current line raises its gap, and else answers (20_memory.md R102). -/
theorem curRead_reads_gap (s : State) (c : Cpnt) (i : Int) : Reads (curRead s c i) (curGap s c i) fun _ => True := by
  unfold curGap
  split
  · rename_i hinside
    rw [curRead_inside c hinside]
    split
    · rename_i hcell
      rw [readCell_none hcell]
      simp [Reads, uninitAt, gapInfo, uninitSpaceCode]
    · rename_i hcell
      exact readCell_reads (Option.isSome_iff_ne_none.2 hcell)
  · rename_i houtside
    have hleft : i < 0 := Int.not_le.1 houtside
    split
    · rename_i hline
      rw [curRead_left_line0 hline c hleft]
      exact reads_ok trivial
    · rename_i hline
      rw [curRead_left_below (Nat.pos_of_ne_zero hline) c hleft]
      exact prevRead_reads_gap s c 0

/-! ### The MAP predictor -/

/-- The gaps of the seven neighbours of the group at gs: the sample left of it, then those above from C on
(40_prediction.md R182, log entry 12). -/
def mapGaps (s : State) (c : Cpnt) (gs : Int) : List (Option Int) :=
  curGap s c (gs - 1) :: [-2, -1, 0, 1, 2, 3].map fun j => prevGap s c (gs + j)

theorem mapBlend_reads (s : State) (c : Cpnt) (gs : Int) (q : Nat) :
    Reads (mapBlend s c gs q) (firstGap (mapGaps s c gs)) fun _ => True := by
  have above (j : Int) : Reads (prevRead s c (gs + j)) (prevGap s c (gs + j)) fun _ => True := prevRead_reads_gap s c _
  have hC := above (-2)
  have hC1 := above (-1)
  have hB := above 0
  simp only [← sub_eq_add_neg, Int.add_zero] at hC hC1 hB
  simp only [mapGaps, List.map_cons, List.map_nil, firstGap_cons, ← sub_eq_add_neg, Int.add_zero]
  refine (curRead_reads_gap s c (gs - 1)).bind fun a _ => hC.bind fun cc _ => hC1.bind fun c1 _ => hB.bind fun b _ => ?_
  exact (above 1).bind fun d _ => (above 2).bind fun e _ => (above 3).bind fun f _ => reads_ok trivial

theorem mapPred_reads_gap (s : State) (c : Cpnt) (gs : Int) (i : Pix) (q : Nat) (r0 r1 : Int) :
    Reads (mapPred s c gs i q r0 r1) (firstGap (mapGaps s c gs)) fun _ => True :=
  (mapBlend_reads s c gs q).bind_last fun _ _ => reads_ok trivial

/-- The blend of a neighbour in closed form (40_prediction.md R183). -/
theorem blend_eq (q : Nat) (l m r : Int) : blend (maxQuantErr q) l m r = blendFormula q l m r := by
  simp [blend, blendFormula, shr, clampInt, maxQuantErr]

/-- The MAP prediction of a pixel in closed form (40_prediction.md R185). -/
theorem predict_eq (m : MapBlend) (h : Nat) (r0 r1 : Int) :
    m.predict (pixOf h) r0 r1 = mapFormula (h % 3) m.a m.blendC m.blendB m.blendD m.blendE r0 r1 := by
  have hmod : h % 3 < 3 := Nat.mod_lt _ (by decide)
  unfold pixOf
  generalize h % 3 = i at hmod ⊢
  match i, hmod with
  | 0, _ | 1, _ | 2, _ => rfl

/-- The neighbourhood from its seven samples: the left one as it is, the four above in closed form (40_prediction.md R182,
R183). -/
theorem mapBlend_ok {s : State} {c : Cpnt} {gs a cc c1 b d e f : Int} (q : Nat) (ha : curRead s c (gs - 1) = .ok a)
    (hcc : prevRead s c (gs - 2) = .ok cc) (hc1 : prevRead s c (gs - 1) = .ok c1) (hb : prevRead s c gs = .ok b)
    (hd : prevRead s c (gs + 1) = .ok d) (he : prevRead s c (gs + 2) = .ok e) (hf : prevRead s c (gs + 3) = .ok f) :
    mapBlend s c gs q = .ok ⟨a, blendFormula q cc c1 b, blendFormula q c1 b d, blendFormula q b d e,
      blendFormula q d e f⟩ := by
  rw [mapBlend, ha, hcc, hc1, hb, hd, he, hf]
  simp only [← blend_eq]
  rfl

/-- A blended neighbour lies in any range that holds the three samples: it lies between the middle one and the filtered
value (40_prediction.md R183). -/
theorem blend_range {half l m r hi : Int} (hhalf : 0 ≤ half) (hl : 0 ≤ l ∧ l ≤ hi) (hm : 0 ≤ m ∧ m ≤ hi)
    (hr : 0 ≤ r ∧ r ≤ hi) : 0 ≤ blend half l m r ∧ blend half l m r ≤ hi := by
  have hfilter : 0 ≤ shr (l + 2 * m + r + 2) 2 ∧ shr (l + 2 * m + r + 2) 2 ≤ hi := by
    unfold shr
    omega
  unfold blend clampInt
  omega

/-- The prediction lies in any range that holds the left sample and the blended neighbours, whatever the residuals: each
pixel's sum is clamped between them (40_prediction.md R185). -/
theorem predict_range {m : MapBlend} {hi : Int} (ha : 0 ≤ m.a ∧ m.a ≤ hi) (hB : 0 ≤ m.blendB ∧ m.blendB ≤ hi)
    (hD : 0 ≤ m.blendD ∧ m.blendD ≤ hi) (hE : 0 ≤ m.blendE ∧ m.blendE ≤ hi) (i : Pix) (r0 r1 : Int) :
    0 ≤ m.predict i r0 r1 ∧ m.predict i r0 r1 ≤ hi := by
  cases i <;> simp only [MapBlend.predict, clampInt] <;> omega

/-- Settles O34: the samples read bound the blends, and the blends bound the prediction. -/
theorem mapPredictionInRange : Obligations.MapPredictionInRange := by
  intro s c gs i q r0 r1 p hcur hprev hp
  obtain ⟨m, hm, hp⟩ := rd_bind_eq_ok.1 hp
  obtain ⟨a, ha, hm⟩ := rd_bind_eq_ok.1 hm
  obtain ⟨cc, -, hm⟩ := rd_bind_eq_ok.1 hm
  obtain ⟨c1, hc1, hm⟩ := rd_bind_eq_ok.1 hm
  obtain ⟨b, hb, hm⟩ := rd_bind_eq_ok.1 hm
  obtain ⟨d, hd, hm⟩ := rd_bind_eq_ok.1 hm
  obtain ⟨e, he, hm⟩ := rd_bind_eq_ok.1 hm
  obtain ⟨f, hf, hm⟩ := rd_bind_eq_ok.1 hm
  cases hm
  cases hp
  have hhalf : (0 : Int) ≤ maxQuantErr q := Int.natCast_nonneg _
  have hB := hprev _ _ hb
  have hD := hprev _ _ hd
  have hE := hprev _ _ he
  exact predict_range (hcur _ _ ha) (blend_range hhalf (hprev _ _ hc1) hB hD) (blend_range hhalf hB hD hE)
    (blend_range hhalf hD hE (hprev _ _ hf)) i r0 r1

/-! ### The operands of `PRED` -/

/-- The value of a register's bits, sign-extended, is its signed value (00_scope.md R11). -/
theorem sext_toNat {n : Nat} (b : BitVec (n + 1)) : sext (n + 1) b.toNat = b.toInt := by
  have hpow : (2 : Int) ^ (n + 1) = 2 * 2 ^ n := by ring
  have hsign : 2 * b.toNat < 2 ^ (n + 1) ↔ (b.toNat : Int) < 2 ^ n := by
    zify
    omega
  rw [sext_succ, BitVec.toInt_eq_toNat_cond]
  push_cast
  simp only [hsign]

theorem opBLow_eq (s : State) : s.opBLow = (s.port.opB.setWidth 16).toInt := by
  rw [State.opBLow, ← BitVec.toNat_setWidth]
  exact sext_toNat _

theorem opBHigh_eq (s : State) : s.opBHigh = ((s.port.opB >>> 16).setWidth 16).toInt := by
  have hhigh : s.port.opB.toNat / 2 ^ 16 = ((s.port.opB >>> 16).setWidth 16).toNat := by
    rw [BitVec.toNat_setWidth, BitVec.toNat_ushiftRight, Nat.shiftRight_eq_div_pow]
    have := s.port.opB.isLt
    omega
  rw [State.opBHigh, hhigh]
  exact sext_toNat _

theorem groupStart_cast (h : Nat) : (groupStart h : Int) = h - h % 3 := by
  unfold groupStart
  omega

/-! ### `PRED` -/

section Pred

variable {s : State} {c : Cpnt} {h : Nat}

theorem exec_pred_far (hrun : s.running) (hslice : s.inSlice) (hfar : s.width + 1 < h) (sel : PredClass) :
    exec (.pred c sel h) s = .next (s.afterFault .range h) :=
  (unlessFaulted_needsSlice hrun hslice).trans (complete_demand_unmet (decide_eq_false (Nat.not_le.2 hfar)))

theorem exec_pred_answers {sel : PredClass} {v : Int} (hrun : s.running) (hslice : s.inSlice) (hpos : h ≤ s.width + 1)
    (hv : predValue c sel h s = .ok v s) : exec (.pred c sel h) s = .next (s.withResult v) :=
  (unlessFaulted_needsSlice hrun hslice).trans
    ((complete_demand_met (decide_eq_true hpos)).trans (complete_writeRes hv))

theorem exec_pred_raises {sel : PredClass} {k : FaultKind} {info : Int} (hrun : s.running) (hslice : s.inSlice)
    (hpos : h ≤ s.width + 1) (hv : predValue c sel h s = .error (raising k info) s) :
    exec (.pred c sel h) s = .next (s.afterFault k info) :=
  (unlessFaulted_needsSlice hrun hslice).trans
    ((complete_demand_met (decide_eq_true hpos)).trans (complete_bind_raise hv))

/-- With a candidate as operand, class BP reads the sample that far to the left (40_prediction.md R188). -/
theorem predValue_bp (low : 3 ≤ s.port.opA.toInt) (high : s.port.opA.toInt ≤ 10) :
    predValue c .bp h s = sense (fun s => curRead s c (h - s.port.opA.toInt)) s := by
  have hcandidate : 0 ≤ s.opA ∧ s.opA.toNat ∈ bpCandidates := by
    rw [mem_bpCandidates, State.opA]
    omega
  have hread : bpPred s c h s.opA.toNat = curRead s c (h - s.port.opA.toInt) := by
    rw [bpPred, Int.toNat_of_nonneg hcandidate.1, State.opA]
  refine (act_bind_ok (act_demand_pos (decide_eq_true hcandidate))).trans ?_
  rw [act_sense, act_sense, hread]

theorem predValue_bp_range (hrange : s.port.opA.toInt < 3 ∨ 10 < s.port.opA.toInt) :
    predValue c .bp h s = .error (raising .range s.port.opA.toInt) s := by
  have hno : ¬ (0 ≤ s.opA ∧ s.opA.toNat ∈ bpCandidates) := by
    rw [mem_bpCandidates, State.opA]
    omega
  exact act_bind_error (act_demand_neg (decide_eq_false hno))

/-- With a level of the component's range as operand, class MAP reads its neighbourhood (40_prediction.md R185). -/
theorem predValue_map (low : 0 ≤ s.port.opA.toInt) (high : s.port.opA.toInt ≤ s.depth c) :
    predValue c .map h s =
      sense (fun s => mapPred s c (groupStart h) (pixOf h) s.opA.toNat s.opBLow s.opBHigh) s :=
  act_bind_ok (act_demand_pos (decide_eq_true ⟨low, high⟩))

theorem predValue_map_range (hrange : s.port.opA.toInt < 0 ∨ (s.depth c : Int) < s.port.opA.toInt) :
    predValue c .map h s = .error (raising .range s.port.opA.toInt) s := by
  have hno : ¬ (0 ≤ s.opA ∧ s.opA ≤ s.depth c) := by
    rw [State.opA]
    omega
  exact act_bind_error (act_demand_neg (decide_eq_false hno))

end Pred

/-- Settles O33: `PRED` runs behind its demands on the position and the operand, and answers its class's read or raises
that read's gap. -/
theorem predRule : Obligations.PredRule := by
  intro s c h hrun hslice
  dsimp only
  refine ⟨exec_pred_far hrun hslice, fun hpos v hv => ?_, fun hpos low high v hv => ?_, fun hpos info hgap => ?_,
    fun hpos low high info hgap => ?_, fun hpos low high info hgap => ?_,
    fun hpos hrange => exec_pred_raises hrun hslice hpos (predValue_bp_range hrange),
    fun hpos hrange => exec_pred_raises hrun hslice hpos (predValue_map_range hrange),
    fun hpos low high a cc c' b d e f ha hcc hc' hb hd he hf => ?_⟩
  · exact exec_pred_answers hrun hslice hpos (act_sense_ok (f := fun s => leftPred s c h) hv)
  · exact exec_pred_answers hrun hslice hpos ((predValue_bp low high).trans (act_sense_ok hv))
  · have hread : leftPred s c h = .error (raising .uninit info) := (curRead_reads_gap s c _).raises hgap
    exact exec_pred_raises hrun hslice hpos (act_sense_error (f := fun s => leftPred s c h) hread)
  · have hread := (curRead_reads_gap s c _).raises hgap
    exact exec_pred_raises hrun hslice hpos ((predValue_bp low high).trans (act_sense_error hread))
  · rw [← groupStart_cast] at hgap
    have hread := (mapPred_reads_gap s c (groupStart h) (pixOf h) s.opA.toNat s.opBLow s.opBHigh).raises hgap
    exact exec_pred_raises hrun hslice hpos ((predValue_map low high).trans (act_sense_error hread))
  · rw [← groupStart_cast] at ha hcc hc' hb hd he hf
    refine exec_pred_answers hrun hslice hpos ((predValue_map low high).trans (act_sense_ok ?_))
    rw [mapPred, mapBlend_ok _ ha hcc hc' hb hd he hf, ← opBLow_eq, ← opBHigh_eq]
    exact congrArg Except.ok (predict_eq _ h _ _)

/-! ### `MIDPOINT` -/

/-- Settles O35: `MIDPOINT` runs behind its demands on the group start and the level, and answers from the sample left of
the group or raises that read's gap. -/
theorem midpointRule : Obligations.MidpointRule := by
  intro s c gs hrun hslice
  dsimp only
  have hstart : exec (.midpoint c gs) s = _ := unlessFaulted_needsSlice hrun hslice
  have hlevel (hgs : gs % 3 = 0) (hw : gs < s.width) : exec (.midpoint c gs) s = _ :=
    hstart.trans (complete_demand_met (decide_eq_true ⟨hgs, hw⟩))
  have hread (hgs : gs % 3 = 0) (hw : gs < s.width) (low : 0 ≤ s.port.opA.toInt) (high : s.port.opA.toInt < s.depth c) :
      exec (.midpoint c gs) s = _ := (hlevel hgs hw).trans (complete_demand_met (decide_eq_true ⟨low, high⟩))
  refine ⟨fun hrange => ?_, fun hgs hw hrange => ?_, fun hgs hw low high info hgap => ?_,
    fun hgs hw low high left hleft => ?_⟩
  · have hno : ¬ (gs % 3 = 0 ∧ gs < s.width) := by omega
    exact hstart.trans (complete_demand_unmet (decide_eq_false hno))
  · have hno : ¬ (0 ≤ s.opA ∧ s.opA < s.depth c) := by
      rw [State.opA]
      omega
    exact (hlevel hgs hw).trans (complete_demand_unmet (decide_eq_false hno))
  · have hmid : Reads (midpointOf s c gs s.opA.toNat) (curGap s c (gs - 1)) fun _ => True :=
      (curRead_reads_gap s c _).bind_last fun _ _ => reads_ok trivial
    exact (hread hgs hw low high).trans (complete_bind_raise (act_sense_error (hmid.raises hgap)))
  · have hmid : midpointOf s c gs s.opA.toNat = .ok (2 ^ (s.depth c - 1) + left % 2 ^ s.opA.toNat) := by
      rw [midpointOf, hleft]
      rfl
    exact (hread hgs hw low high).trans (complete_writeRes (act_sense_ok hmid))

end Sys2Proof.Machine

namespace Sys2Proof.Machine

/-! ## The quantizer commands -/

/-! ### The functions of the quantizer -/

section Quantize

variable {e : Int} {q : Nat}

/-- A step is two half steps (41_quantizer.md R234). -/
theorem quantStep_eq_two_halves (hq : 1 ≤ q) : (2 : Int) ^ q = 2 * 2 ^ (q - 1) :=
  (mul_pow_sub_one (Nat.one_le_iff_ne_zero.1 hq) 2).symm

@[simp] theorem quantize_level_zero (e : Int) : quantize e 0 = e := rfl

/-- A positive error is rounded down after the offset (41_quantizer.md R234). -/
theorem quantize_of_pos (hq : 1 ≤ q) (he : 0 < e) : quantize e q = (e + (2 ^ (q - 1) - 1)) / 2 ^ q := by
  rw [quantize, if_neg (Nat.one_le_iff_ne_zero.1 hq), if_pos he]
  rfl

/-- The magnitude of any other error is rounded down after the offset (41_quantizer.md R234). -/
theorem quantize_of_nonpos (hq : 1 ≤ q) (he : e ≤ 0) : quantize e q = -((2 ^ (q - 1) - 1 - e) / 2 ^ q) := by
  rw [quantize, if_neg (Nat.one_le_iff_ne_zero.1 hq), if_neg (Int.not_lt.2 he)]
  rfl

/-- An error of at most half a step is lost (41_quantizer.md R235). -/
theorem quantize_dead_zone (hq : 1 ≤ q) (low : -2 ^ (q - 1) ≤ e) (high : e ≤ 2 ^ (q - 1)) : quantize e q = 0 := by
  have hstep := quantStep_eq_two_halves hq
  have hhalf : (0 : Int) < 2 ^ (q - 1) := by positivity
  rcases Int.lt_or_le 0 e with he | he
  · rw [quantize_of_pos hq he, Int.ediv_eq_zero_of_lt] <;> omega
  · rw [quantize_of_nonpos hq he, Int.ediv_eq_zero_of_lt, neg_zero] <;> omega

theorem quantize_neg_of_pos (hq : 1 ≤ q) (he : 0 < e) : quantize (-e) q = -quantize e q := by
  rw [quantize_of_nonpos hq (by omega), quantize_of_pos hq he, sub_neg_eq_add, add_comm]

/-- The quantizer is odd: the two signs share one rounding of the magnitude (41_quantizer.md R235). -/
theorem quantize_neg (hq : 1 ≤ q) (e : Int) : quantize (-e) q = -quantize e q := by
  have hhalf : (0 : Int) < 2 ^ (q - 1) := by positivity
  rcases lt_trichotomy e 0 with he | rfl | he
  · have := quantize_neg_of_pos hq (Int.neg_pos.2 he)
    rw [neg_neg] at this
    rw [this, neg_neg]
  · rw [neg_zero, quantize_dead_zone hq (by omega) (by omega), neg_zero]
  · exact quantize_neg_of_pos hq he

/-- The rest that rounding drops is between 0 and a step, and the offset moves it to within half a step of 0. -/
theorem quantize_error_of_pos (hq : 1 ≤ q) (he : 0 < e) : |e - quantize e q * 2 ^ q| ≤ 2 ^ (q - 1) := by
  have hstep := quantStep_eq_two_halves hq
  have hpos : (0 : Int) < 2 ^ q := by positivity
  have hsplit := Int.ediv_mul_add_emod (e + (2 ^ (q - 1) - 1)) (2 ^ q)
  have hlow := Int.emod_nonneg (e + (2 ^ (q - 1) - 1)) hpos.ne'
  have hhigh := Int.emod_lt_of_pos (e + (2 ^ (q - 1) - 1)) hpos
  rw [quantize_of_pos hq he, abs_le]
  constructor <;> linarith

/-- Quantization errs by at most half a step (41_quantizer.md R235). -/
theorem quantize_error (hq : 1 ≤ q) (e : Int) : |e - quantize e q * 2 ^ q| ≤ 2 ^ (q - 1) := by
  have hhalf : (0 : Int) < 2 ^ (q - 1) := by positivity
  rcases lt_trichotomy e 0 with he | rfl | he
  · have hpositive := quantize_error_of_pos hq (Int.neg_pos.2 he)
    rwa [quantize_neg hq, neg_mul, ← neg_sub', abs_neg] at hpositive
  · simp [quantize_dead_zone hq (e := 0) (by omega) (by omega)]
  · exact quantize_error_of_pos hq he

/-- At every level, level 0 included, a residual is restored to within half a step of its error (41_quantizer.md R236,
R237). -/
theorem dequantize_quantize_error (e : Int) (q : Nat) : |e - dequantize (quantize e q) q| ≤ 2 ^ q / 2 := by
  rcases Nat.eq_zero_or_pos q with rfl | hq
  · simp [dequantize]
  · have hhalf : (2 : Int) ^ q / 2 = 2 ^ (q - 1) := by
      have := quantStep_eq_two_halves hq
      omega
    rw [hhalf]
    exact quantize_error hq e

end Quantize

/-! ### The reconstruction clamp -/

theorem clampInt_of_lt_lo {x lo hi : Int} (h : x < lo) (hle : lo ≤ hi) : clampInt x lo hi = lo := by
  rw [clampInt, max_eq_right h.le, min_eq_left hle]

theorem clampInt_of_hi_lt {x lo hi : Int} (h : hi < x) : clampInt x lo hi = hi :=
  min_eq_right (h.le.trans (le_max_left x lo))

/-- A clamp moves no value away from a point of its range. -/
theorem abs_sub_clampInt_le {x lo hi : Int} (low : lo ≤ x) (high : x ≤ hi) (y : Int) : |x - clampInt y lo hi| ≤ |x - y| :=
  calc |x - clampInt y lo hi|
    _ = |min (max x lo) hi - min (max y lo) hi| := by rw [clampInt, max_eq_left low, min_eq_left high]
    _ ≤ max |max x lo - max y lo| |hi - hi| := abs_min_sub_min_le_max _ _ _ _
    _ = |max x lo - max y lo| := by simp
    _ ≤ |x - y| := abs_max_sub_max_le_abs x y lo

/-- The reconstruction of a sample from its quantized error is within half a step of it: the clamp can only reduce the
error (41_quantizer.md R235, R240). -/
theorem reconSample_quantize_error {s : State} {c : Cpnt} {p e : Int} (low : 0 ≤ p + e) (high : p + e ≤ s.maxval c)
    (q : Nat) : |p + e - reconSample s c p (dequantize (quantize e q) q)| ≤ 2 ^ q / 2 :=
  calc |p + e - reconSample s c p (dequantize (quantize e q) q)|
    _ ≤ |p + e - (p + dequantize (quantize e q) q)| := abs_sub_clampInt_le low high _
    _ = |e - dequantize (quantize e q) q| := by rw [add_sub_add_left_eq_sub]
    _ ≤ 2 ^ q / 2 := dequantize_quantize_error e q

/-- Settles O29: oddness leaves the positive errors to treat, whose rounding drops less than a step. -/
theorem quantizeProperties : Obligations.QuantizeProperties := fun e q hq =>
  ⟨quantize_neg hq e, quantize_dead_zone hq, quantize_error hq e, fun _ _ _ low high =>
    reconSample_quantize_error low high q⟩

/-! ### The residual size -/

/-- The size of a residual is at most n + 1 just when n + 1 bits of two's complement hold it (41_quantizer.md R238). -/
theorem residualSize_le_iff {e : Int} {n : Nat} : residualSize e ≤ n + 1 ↔ -2 ^ n ≤ e ∧ e < 2 ^ n := by
  refine ⟨residual_range, fun ⟨low, high⟩ => ?_⟩
  have hlog {m : Nat} (hm : m ≠ 0) (hfits : (m : Int) < 2 ^ n) : Nat.log2 m + 2 ≤ n + 1 := by
    have : Nat.log2 m < n := (Nat.log2_lt hm).2 (by exact_mod_cast hfits)
    omega
  simp only [residualSize]
  split_ifs with hzero hsign hone hone
  · omega
  · omega
  · exact hlog hone (by omega)
  · omega
  · exact hlog hone (by omega)

/-- The size of a residual is the least width of two's complement that holds it (41_quantizer.md R238). -/
theorem residualSize_least {e : Int} (he : e ≠ 0) :
    1 ≤ residualSize e ∧ -2 ^ (residualSize e - 1) ≤ e ∧ e ≤ 2 ^ (residualSize e - 1) - 1 ∧
      ∀ m, 1 ≤ m → -2 ^ (m - 1) ≤ e → e ≤ 2 ^ (m - 1) - 1 → residualSize e ≤ m := by
  have hpos : 1 ≤ residualSize e := Nat.one_le_iff_ne_zero.2 fun h => he (eq_zero_of_residualSize h)
  obtain ⟨low, high⟩ := residualSize_le_iff.1 (Nat.sub_add_cancel hpos).ge
  refine ⟨hpos, low, Int.le_sub_one_of_lt high, fun m hm low high => ?_⟩
  rw [← Nat.sub_add_cancel hm]
  exact residualSize_le_iff.2 ⟨low, Int.lt_of_le_sub_one high⟩

/-! ### The checks before a quantizer command -/

section Checks

variable {s : State} {f : Unit → Act Unit}

/-- A quantizer command runs on a block that has a checked configuration and is not halted (30_encoding.md R134). -/
theorem unlessFaulted_needsConfig (hrun : s.running) (hcfg : s.st.cfgValid = true) :
    unlessFaulted (needsConfig >>= f) s = complete (f ()) s :=
  (unlessFaulted_running hrun).trans (complete_demand_met hcfg)

/-- A level operand of 0 to 12 leaves the rest of the command to run (41_quantizer.md R234, R236). -/
theorem complete_demandLevel_met (low : 0 ≤ s.port.opB.toInt) (high : s.port.opB.toInt ≤ 12) :
    complete (demandLevel >>= f) s = complete (f ()) s :=
  complete_demand_met (decide_eq_true ⟨low, high⟩)

theorem complete_demandLevel_unmet (hrange : s.port.opB.toInt < 0 ∨ 12 < s.port.opB.toInt) :
    complete (demandLevel >>= f) s = .next (s.afterFault .range s.port.opB.toInt) := by
  have hno : ¬ (0 ≤ s.opB ∧ s.opB ≤ 12) := by
    rw [State.opB]
    omega
  exact complete_demand_unmet (decide_eq_false hno)

end Checks

/-- Settles O31: `RSIZE` answers the residual size, which is the least width. -/
theorem rsizeIsLeastWidth : Obligations.RsizeIsLeastWidth := fun s hrun hcfg =>
  ⟨residualSize s.opA,
    (unlessFaulted_needsConfig hrun hcfg).trans (complete_writeRes (act_look (fun s => (residualSize s.opA : Int)) s)),
    fun hzero => if_pos hzero, residualSize_least⟩

/-- Settles O32: `RECON` answers the clamped sum. -/
theorem reconClamps : Obligations.ReconClamps := by
  intro s c hrun hcfg
  dsimp only
  obtain ⟨low, high⟩ := reconSample_range s c s.opA s.opB
  refine ⟨reconSample s c s.opA s.opB, (unlessFaulted_needsConfig hrun hcfg).trans
    (complete_writeRes (act_look (fun s => reconSample s c s.opA s.opB) s)), low, high,
    fun hlow hhigh => clampInt_of_mem hlow hhigh, fun hneg => clampInt_of_lt_lo hneg (low.trans high),
    fun hover => clampInt_of_hi_lt hover⟩

/-! ### `QUANT` and `DEQUANT` -/

section Level

variable {s : State}

theorem exec_quant_level (hrun : s.running) (hcfg : s.st.cfgValid = true) (low : 0 ≤ s.port.opB.toInt)
    (high : s.port.opB.toInt ≤ 12) :
    exec .quant s = .next (s.withResult (quantize s.port.opA.toInt s.port.opB.toInt.toNat)) :=
  (unlessFaulted_needsConfig hrun hcfg).trans
    ((complete_demandLevel_met low high).trans (complete_writeRes (act_look (fun s => quantize s.opA s.opB.toNat) s)))

/-- Behind its checks `DEQUANT` answers the product, on the demand that it fits 32 signed bits (41_quantizer.md R236). -/
theorem exec_dequant_level (hrun : s.running) (hcfg : s.st.cfgValid = true) (low : 0 ≤ s.port.opB.toInt)
    (high : s.port.opB.toInt ≤ 12) {v : Int} (hv : s.port.opA.toInt * 2 ^ s.port.opB.toInt.toNat = v) :
    exec .dequant s =
      complete (demand (fun _ => decide (-2 ^ 31 ≤ v ∧ v < 2 ^ 31)) .range State.opA >>= fun _ => writeRes v) s := by
  subst hv
  exact (unlessFaulted_needsConfig hrun hcfg).trans ((complete_demandLevel_met low high).trans
    (complete_bind_ok (act_look (fun s => dequantize s.opA s.opB.toNat) s)))

end Level

/-- Settles O28: with a level, `QUANT` answers the quantized operand, case by case of its sign. -/
theorem quantRule : Obligations.QuantRule := by
  intro s hrun hcfg
  dsimp only
  refine ⟨fun hzero => ?_, fun low high hpos => ?_, fun low high hneg => ?_,
    fun hrange => (unlessFaulted_needsConfig hrun hcfg).trans (complete_demandLevel_unmet hrange)⟩
  · rw [exec_quant_level hrun hcfg (by omega) (by omega), hzero]
    rfl
  · rw [exec_quant_level hrun hcfg (by omega) high, quantize_of_pos (by omega) hpos]
  · rw [exec_quant_level hrun hcfg (by omega) high, quantize_of_nonpos (by omega) hneg]

/-- Settles O30: with a level, `DEQUANT` answers the product if it fits 32 signed bits. -/
theorem dequantRule : Obligations.DequantRule := by
  intro s hrun hcfg
  dsimp only
  refine ⟨fun low high hlow hhigh => ?_, fun low high hover => ?_,
    fun hrange => (unlessFaulted_needsConfig hrun hcfg).trans (complete_demandLevel_unmet hrange)⟩
  · rw [exec_dequant_level hrun hcfg low high rfl, complete_demand_met (decide_eq_true ⟨hlow, hhigh⟩)]
    exact complete_ok (act_writeRes _ s)
  · rw [exec_dequant_level hrun hcfg low high rfl]
    exact complete_demand_unmet (decide_eq_false fun ⟨hlow, hhigh⟩ => by omega)

/-! ### `MAPQ` -/

section Mapq

variable {s : State}

theorem mapQpToLevel_of_depth (hbpc : s.bpc = 8 ∨ s.bpc = 10 ∨ s.bpc = 12) (c : Cpnt) {qp : Int} (low : 0 ≤ qp)
    (high : qp ≤ maxQp s.bpc) : mapQpToLevel s c qp = .ok (levelOf s c qp.toNat) := by
  have hget : (qlutOf s c)[qp.toNat]? = some (levelOf s c qp.toNat) := by
    have htable : qp.toNat ≤ maxQp s.bpc := by omega
    unfold qlutOf levelOf
    simp only [isChroma_iff]
    split
    · exact qlutChroma_get hbpc htable
    · exact qlutLuma_get hbpc htable
  rw [mapQpToLevel, if_neg (by omega), hget]

theorem mapQpToLevel_outside (c : Cpnt) {qp : Int} (h : qp < 0 ∨ (maxQp s.bpc : Int) < qp) :
    mapQpToLevel s c qp = .error (raising .range qp) := if_pos h

/-- The least QP gives level 0 (41_quantizer.md R232). -/
theorem levelOf_zero (s : State) (c : Cpnt) : levelOf s c 0 = 0 := by
  unfold levelOf
  split <;> rfl

/-- The greatest QP gives one less than the component's depth (41_quantizer.md R232, 00_scope.md R16). -/
theorem levelOf_maxQp (hbpc : s.bpc = 8 ∨ s.bpc = 10 ∨ s.bpc = 12) (c : Cpnt) :
    levelOf s c (maxQp s.bpc) = s.depth c - 1 := by
  unfold levelOf State.depth
  simp only [← isChroma_iff]
  rcases hbpc with h | h | h <;> cases s.isChroma c <;> simp [h, maxQp]

end Mapq

/-- Settles O27: `MAPQ` answers the level of a QP in range, or raises with the QP. -/
theorem mapqRule : Obligations.MapqRule := by
  intro s c hrun hcfg hbpc
  have hstart : exec (.mapq c) s = _ := unlessFaulted_needsConfig hrun hcfg
  refine ⟨fun low high => ?_, fun hrange => ?_, levelOf_zero s c, levelOf_maxQp hbpc c⟩
  · exact hstart.trans ((complete_bind_ok (act_sense_ok (mapQpToLevel_of_depth hbpc c low high))).trans
      (complete_ok (act_writeRes _ s)))
  · exact hstart.trans (complete_bind_raise (act_sense_error (mapQpToLevel_outside c hrange)))

/-! ### A pixel of a normal unit -/

/-- An original sample is not negative (20_memory.md R102). -/
theorem origRead_nonneg {s : State} {c : Cpnt} {i x : Int} (h : origRead s c i = .ok x) : 0 ≤ x := by
  obtain ⟨v, -, rfl⟩ := readCell_eq_ok (origRead_eq s c i ▸ h)
  exact Int.natCast_nonneg _

/-- The carrier of a sample holds a reconstructed sample exactly (41_quantizer.md R240). -/
theorem sample_reconSample (s : State) (c : Cpnt) (p deq : Int) :
    ((BitVec.ofInt 16 (reconSample s c p deq)).toNat : Int) = reconSample s c p deq := by
  obtain ⟨low, high⟩ := reconSample_range s c p deq
  have hmax := maxval_lt s c
  rw [BitVec.toNat_ofInt]
  omega

/-- Writing a pixel puts its reconstruction into `cur` (44_entropy.md R364). -/
theorem storeRead_writePixel (s : State) (c : Cpnt) (gs : Nat) (i : Pix) (q : Nat) (p e : Int) :
    storeRead ((leaves (writePixel c gs i q p e) s).cur.get c) (gs + i.toNat) =
      some (BitVec.ofInt 16 (reconSample s c p (dequantize e q))) := by
  simp [leaves, writePixel, State.setCur, State.setScratch, storeRead_writeCell]

/-- The pixel at `gs + i` of component c stands in `cur` within half a step of the sample x, in range
(44_entropy.md R381). -/
def PixelNear (s : State) (c : Cpnt) (gs q : Nat) (i : Pix) (x : Int) (t : State) : Prop :=
  ∃ v, storeRead (t.cur.get c) (gs + i.toNat) = some v ∧ |x - v.toNat| ≤ 2 ^ q / 2 ∧ v.toNat ≤ s.maxval c

/-- A pixel whose residual is its quantized error is written within half a step of the sample (44_entropy.md R364). -/
theorem writePixel_near {s : State} {c : Cpnt} {x : Int} (low : 0 ≤ x) (high : x ≤ s.maxval c) (gs q : Nat) (i : Pix)
    (p : Int) : Ends (writePixel c gs i q p (quantize (x - p) q)) s (fun _ t => PixelNear s c gs q i x t) fun _ _ => True := by
  refine ends_update ⟨_, storeRead_writePixel s c gs i q p _, ?_, ?_⟩
  · rw [sample_reconSample]
    have := reconSample_quantize_error (s := s) (c := c) (p := p) (e := x - p) (by omega) (by omega) q
    rwa [add_sub_cancel] at this
  · obtain ⟨hlow, hhigh⟩ := reconSample_range s c p (dequantize (quantize (x - p) q) q)
    exact sample_ofInt_le hlow hhigh

theorem normalPixel_near {s : State} {c : Cpnt} {gs : Nat} {i : Pix} {x : Int} (hx : origRead s c (gs + i.toNat) = .ok x)
    (high : x ≤ s.maxval c) (q : Nat) (r0 r1 : Int) :
    Ends (normalPixel c gs q i r0 r1) s (fun _ t => PixelNear s c gs q i x t) fun _ _ => True := by
  refine ends_bind (ends_sense (fun p _ => ?_) fun _ => trivial)
  refine ends_bind (ends_sense (fun o ho => ?_) fun _ => trivial)
  cases hx.symm.trans ho
  refine ends_bind ((writePixel_near (origRead_nonneg hx) high gs q i p).mono fun _ t ht => ?_)
  exact ends_ok (act_pure _ t) ht

/-- Settles O48: the residual of a normal pixel is the quantized error of its original. -/
theorem normalPixelErrorBound : Obligations.NormalPixelErrorBound := fun _ t _ _ q _ r0 r1 e _ hx high h =>
  (normalPixel_near hx high q r0 r1).answers e t h

end Sys2Proof.Machine

namespace Sys2Proof.Machine

/-! ## The order of the cache -/

/-! ### The cache update -/

/-- The slot the update takes out of n cache slots: the first that holds the pixel, or the last (42_ich.md R272). -/
def removedSlot (n : Nat) (p : Tri Sample) (l : List IchEntry) : Nat :=
  ((l.take n).findIdx? fun e => e.holds p).getD (n - 1)

theorem ichInsert_eq (n : Nat) (p : Tri Sample) (l : List IchEntry) :
    ichInsert n p l = ⟨true, p⟩ :: (l.take (removedSlot n p l) ++ l.drop (removedSlot n p l + 1)) := rfl

theorem holds_iff (e : IchEntry) (p : Tri Sample) : e.holds p = true ↔ e.valid = true ∧ e.v = p := by
  simp [IchEntry.holds]

/-- No slot before the one taken out holds the pixel; that one does, or it is the last and no slot does. -/
theorem removedSlot_cases {n : Nat} {l : List IchEntry} (p : Tri Sample) (hpos : 1 ≤ n) (hlen : n ≤ l.length) :
    removedSlot n p l < n ∧
      ((∃ e, l[removedSlot n p l]? = some e ∧ e.holds p = true) ∧
          (∀ k < removedSlot n p l, ∀ e, l[k]? = some e → ¬ e.holds p = true) ∨
        removedSlot n p l = n - 1 ∧ ∀ k < n, ∀ e, l[k]? = some e → ¬ e.holds p = true) := by
  unfold removedSlot
  cases hfind : (l.take n).findIdx? fun e => e.holds p with
  | none =>
    refine ⟨Nat.sub_one_lt_of_lt hpos, .inr ⟨rfl, fun k hk e he => ?_⟩⟩
    have hmem : e ∈ l.take n := List.mem_of_getElem? ((List.getElem?_take_of_lt hk).trans he)
    simpa using List.findIdx?_eq_none_iff.1 hfind e hmem
  | some j =>
    obtain ⟨hj, hhold, hbefore⟩ := List.findIdx?_eq_some_iff_getElem.1 hfind
    have hjn : j < n := (List.length_take_le n l).trans_lt' hj
    refine ⟨hjn, .inl ⟨⟨l[j], by simp, by simpa using hhold⟩, fun k (hk : k < j) e he => ?_⟩⟩
    obtain ⟨_, rfl⟩ := List.getElem?_eq_some_iff.1 he
    simpa using hbefore k hk

/-- The slots up to the one taken out move down by one. -/
theorem ichInsert_moved {n : Nat} {p : Tri Sample} {l : List IchEntry} {k : Nat} (hpos : 1 ≤ k)
    (hk : k ≤ removedSlot n p l) (hlen : removedSlot n p l ≤ l.length) : (ichInsert n p l)[k]? = l[k - 1]? := by
  obtain ⟨k, rfl⟩ := Nat.exists_eq_add_of_le' hpos
  rw [ichInsert_eq, List.getElem?_cons_succ, List.getElem?_append_left (by simp; omega), List.getElem?_take_of_lt hk]
  rfl

/-- The entries after the one taken out stay. -/
theorem ichInsert_kept {n : Nat} {p : Tri Sample} {l : List IchEntry} {k : Nat} (hk : removedSlot n p l < k)
    (hlen : removedSlot n p l ≤ l.length) : (ichInsert n p l)[k]? = l[k]? := by
  obtain ⟨k, rfl⟩ := Nat.exists_eq_add_of_lt hk
  have hrest : removedSlot n p l + k - removedSlot n p l = k := by omega
  rw [ichInsert_eq, List.getElem?_cons_succ, List.getElem?_append_right (by simp), List.length_take_of_le hlen, hrest,
    List.getElem?_drop]
  congr 1
  omega

/-- Settles O39: the pixel takes the place of the slot taken out, and the slots before that one move down. -/
theorem ichUpdateRule : Obligations.IchUpdateRule := by
  intro n p l hpos hlen
  obtain ⟨hlt, hslot⟩ := removedSlot_cases p hpos hlen
  simp only [holds_iff] at hslot
  exact ⟨removedSlot n p l, hlt, by simpa only [and_assoc] using hslot, ichInsert_length n p l hpos hlen, rfl,
    fun k hone hk => ichInsert_moved hone hk (by omega), fun k hk => ichInsert_kept hk (by omega)⟩

/-! ### The invariant -/

theorem getElem?_ich {s : State} {k : Nat} (h : k < s.ich.length) : s.ich[k]? = some (ichEntry s k) := by
  simp [ichEntry, List.getD_eq_getElem?_getD, h]

/-- With no valid slot there is nothing to order (42_ich.md R270, R271). -/
theorem ichInv_of_invalid {s : State} (size : s.ich.length = 32) (h : ∀ k < ichSlots s, (ichEntry s k).valid = false) :
    IchInv s where
  size := size
  run j k _ hk hvalid := by simp [h k hk] at hvalid
  distinct j k _ hk hvalid := by simp [h k hk] at hvalid

/-- The order does not depend on what leaves the cache and brings no slot into use. -/
theorem IchInv.frame {s t : State} (h : IchInv s) (ich : t.ich = s.ich) (slots : ichSlots t ≤ ichSlots s) : IchInv t := by
  have hentry (k : Nat) : ichEntry t k = ichEntry s k := by rw [ichEntry, ich, ichEntry]
  constructor
  · exact ich ▸ h.size
  · intro j k hjk hk
    rw [hentry, hentry]
    exact h.run j k hjk (hk.trans_le slots)
  · intro j k hjk hk
    rw [hentry, hentry]
    exact h.distinct j k hjk (hk.trans_le slots)

/-- The slots in use depend on the line alone (42_ich.md R261). -/
theorem ichSlots_eq_of_vPos {s t : State} (h : t.pos.vPos = s.pos.vPos) : ichSlots t = ichSlots s := by
  rw [ichSlots, State.vPos, h]
  rfl

/-- Below line 0 no more slots are in use than on any line (42_ich.md R261). -/
theorem ichSlots_le_of_below {s : State} (h : 1 ≤ s.vPos) (t : State) : ichSlots s ≤ ichSlots t := by
  have hslots : ichSlots s = 25 := if_neg (by omega)
  rw [hslots, ichSlots]
  split <;> decide

theorem IchInv.enterFault {s : State} (h : IchInv s) (r : Raise) : IchInv (s.enterFault r) :=
  h.frame (enterFault_ich s r) (ichSlots_eq_of_vPos (congrArg _ (enterFault_pos s r))).le

/-- The slot of the old cache whose entry stands in slot k ≥ 1 after an update that takes out slot i (42_ich.md R272). -/
def oldSlot (i k : Nat) : Nat := if k ≤ i then k - 1 else k

/-- The entries behind the front are those of the old cache without the one taken out, in their order. -/
theorem oldSlot_order {i j k : Nat} (hj : 1 ≤ j) (hjk : j < k) : oldSlot i j < oldSlot i k := by
  unfold oldSlot
  split_ifs <;> omega

theorem oldSlot_le (i k : Nat) : oldSlot i k ≤ k := by
  unfold oldSlot
  split_ifs <;> omega

theorem oldSlot_ne {i k : Nat} (hk : 1 ≤ k) : oldSlot i k ≠ i := by
  unfold oldSlot
  split_ifs <;> omega

theorem ichEntry_insert {s : State} {n k : Nat} {p : Tri Sample} (hk : 1 ≤ k) (hlen : removedSlot n p s.ich ≤ s.ich.length) :
    ichEntry (s.withIch (ichInsert n p s.ich)) k = ichEntry s (oldSlot (removedSlot n p s.ich) k) := by
  simp only [ichEntry, List.getD_eq_getElem?_getD, State.withIch_ich, oldSlot]
  split
  · rw [ichInsert_moved hk ‹_› hlen]
  · rw [ichInsert_kept (Nat.not_le.1 ‹_›) hlen]

/-- In an ordered cache no valid slot holds the pixel but the one taken out (42_ich.md R274). -/
theorem IchInv.only_removedSlot {s : State} (h : IchInv s) (p : Tri Sample) {k : Nat} (hk : k < ichSlots s)
    (hne : k ≠ removedSlot (ichSlots s) p s.ich) (hvalid : (ichEntry s k).valid = true) : (ichEntry s k).v ≠ p := by
  intro hv
  have hslots := ichSlots_le s
  have hsize := h.size
  have hget {m : Nat} (hm : m < ichSlots s) : s.ich[m]? = some (ichEntry s m) := getElem?_ich (by omega)
  have hholds : (ichEntry s k).holds p = true := (holds_iff _ _).2 ⟨hvalid, hv⟩
  obtain ⟨hlt, ⟨⟨e, he, heldThere⟩, hbefore⟩ | ⟨-, hnone⟩⟩ := removedSlot_cases p (ichSlots_pos s) (l := s.ich) (by omega)
  · rcases Nat.lt_or_gt_of_ne hne with hlow | hhigh
    · exact hbefore k hlow _ (hget hk) hholds
    · cases (hget hlt).symm.trans he
      exact h.distinct _ k hhigh hk hvalid (((holds_iff _ _).1 heldThere).2.trans hv.symm)
  · exact hnone k hk _ (hget hk) hholds

/-- The cache update keeps the order: behind the front stand the old entries that do not hold the pixel, in their order. -/
theorem IchInv.insert {s : State} (h : IchInv s) (p : Tri Sample) :
    IchInv (s.withIch (ichInsert (ichSlots s) p s.ich)) := by
  have hslots := ichSlots_le s
  have hsize := h.size
  obtain ⟨hlt, -⟩ := removedSlot_cases p (ichSlots_pos s) (l := s.ich) (by omega)
  have hentry {k : Nat} (hk : 1 ≤ k) := ichEntry_insert (n := ichSlots s) (p := p) hk (s := s) (by omega)
  have hold {k : Nat} (hk : k < ichSlots s) : oldSlot (removedSlot (ichSlots s) p s.ich) k < ichSlots s :=
    (oldSlot_le _ k).trans_lt hk
  refine ⟨(ichInsert_length _ _ _ (ichSlots_pos s) (by omega)).trans hsize, fun j k hjk (hk : k < ichSlots s) hvalid => ?_,
    fun j k hjk (hk : k < ichSlots s) hvalid => ?_⟩ <;> rw [hentry (Nat.one_le_of_lt hjk)] at hvalid
  · rcases Nat.eq_zero_or_pos j with rfl | hj
    · rfl
    · rw [hentry hj]
      exact h.run _ _ (oldSlot_order hj hjk) (hold hk) hvalid
  · rw [hentry (Nat.one_le_of_lt hjk)]
    rcases Nat.eq_zero_or_pos j with rfl | hj
    · exact (h.only_removedSlot p (hold hk) (oldSlot_ne (Nat.one_le_of_lt hjk)) hvalid).symm
    · rw [hentry hj]
      exact h.distinct _ _ (oldSlot_order hj hjk) (hold hk) hvalid

theorem IchInv.groupWrites {s t : State} (h : IchInv s) (w : GroupWrites s t) : IchInv t := by
  induction w with
  | refl => exact h
  | tail _ hw ih =>
    cases hw with
    | cache => exact ih.insert _
    | _ => exact { ih with }

/-- A cleared entry is not valid, nor is one beyond the cache. -/
theorem ichClear_getD_valid (l : List IchEntry) (k : Nat) : ((ichClear l).getD k IchEntry.empty).valid = false := by
  rw [ichClear, List.getD_eq_getElem?_getD, List.getElem?_map]
  cases l[k]? <;> rfl

/-- The partial clear makes the entries below n invalid (42_ich.md R271). -/
theorem ichPartialClear_getD_valid {n k : Nat} {l : List IchEntry} (hk : k < n) (hlen : k < l.length) :
    ((ichPartialClear n l).getD k IchEntry.empty).valid = false := by
  rw [ichPartialClear, List.getD_append _ _ _ _ (by simp; omega)]
  exact ichClear_getD_valid _ k

theorem sliceBegun_ichInv {s : State} (size : s.ich.length = 32) (d : Bool) : IchInv (s.sliceBegun d) :=
  ichInv_of_invalid ((ichClear_length _).trans size) fun k _ => ichClear_getD_valid s.ich k

theorem IchInv.lineStart {s : State} (h : IchInv s) : IchInv s.lineIch.openLine := by
  have hline : IchInv s.lineIch := by
    unfold State.lineIch
    split
    · refine ichInv_of_invalid ((ichPartialClear_length _ _).trans h.size) fun k (hk : k < ichSlots s) => ?_
      exact ichPartialClear_getD_valid hk (by rw [h.size]; exact hk.trans_le (ichSlots_le s))
    · exact h
  exact { hline with }

/-- Every effect keeps the order of the cache. -/
theorem IchInv.effect {i : Instr} {s t : State} (h : IchInv s) (e : Effect i s t) : IchInv t := by
  cases e with
  | hold => exact h
  | fault _ _ r => exact h.enterFault r
  | result | checkPassed | cfgByte | cfgThresh | origWr => exact { h with }
  | checkFailed r | startRefused _ r | lineEndCut r | lineEndUnfit r =>
    refine IchInv.enterFault ?_ r
    exact { h with }
  | sliceStart d => exact sliceBegun_ichInv h.size d
  | lineStart => exact h.lineStart
  | @lineEnd _ _ v _ _ _ next =>
    refine h.frame rfl (ichSlots_le_of_below ?_ s)
    show 1 ≤ v.toNat
    omega
  | groupCut r _ writes => exact (h.groupWrites writes).enterFault r
  | groupUnfit _ r _ writes sameLine =>
    refine IchInv.enterFault ?_ r
    exact (h.groupWrites writes).frame rfl (ichSlots_eq_of_vPos sameLine).le
  | group _ _ _ writes => exact { h.groupWrites writes with }
  | rate writes => exact h.frame writes.storageFrame.ich (ichSlots_eq_of_vPos writes.controlFrame.vPos).le
  | rateCut r writes =>
    exact (h.frame writes.storageFrame.ich (ichSlots_eq_of_vPos writes.controlFrame.vPos).le).enterFault r

/-- Settles O59: the cache update keeps the order, the clears leave no valid slot, and no other command writes the cache or
brings a slot into use. -/
theorem cacheOrderKept : Obligations.CacheOrderKept := fun _ _ hs h =>
  step_keeps (fun _ _ _ hs => { hs with }) (fun _ _ _ hs e => hs.effect e) hs h

end Sys2Proof.Machine

namespace Sys2Proof.Machine

/-! ## The commands that read the cache -/

/-! ### A lookup -/

section Lookup

variable {s : State} {k : Nat} {c : Cpnt} {gs : Int}

/-- Entry numbers 25 to 31 name the line above on every line but the first (42_ich.md R261). -/
theorem ichIsAbove_iff : ichIsAbove s k = true ↔ 1 ≤ s.vPos ∧ 25 ≤ k := by
  rw [ichIsAbove, decide_eq_true_iff]
  refine and_congr_right fun hline => ?_
  rw [ichSlots, if_neg (by omega)]
  rfl

/-- The sample of the line above that entry number k names at the group at gs (42_ich.md R262). -/
def windowIndex (s : State) (k : Nat) (gs : Int) : Int := max 3 (min (gs + 1) ((s.width : Int) - 4)) + (k - 25) - 3

theorem historyLookup_above (habove : 1 ≤ s.vPos ∧ 25 ≤ k) : historyLookup s k c gs = prevRead s c (windowIndex s k gs) := by
  have hslots : ichSlots s = 25 := if_neg (by omega)
  have hcenter : ichCenter s gs = max 3 (min (gs + 1) ((s.width : Int) - 4)) := by
    simp only [ichCenter, ichAbove]
    omega
  rw [historyLookup, if_pos (ichIsAbove_iff.2 habove), hslots, hcenter]
  rfl

theorem historyLookup_slot (hslot : ¬ (1 ≤ s.vPos ∧ 25 ≤ k)) :
    historyLookup s k c gs =
      if (ichEntry s k).valid then .ok ((ichEntry s k).v.get c).toNat else .error (uninitAt .ich 0 k) :=
  if_neg (ichIsAbove_iff.not.2 hslot)

/-- A lookup of an entry of the line above raises the gap of its sample, and else answers (42_ich.md R262). -/
theorem historyLookup_above_reads (habove : 1 ≤ s.vPos ∧ 25 ≤ k) :
    Reads (historyLookup s k c gs) (entryGap s k c gs) fun _ => True := by
  rw [historyLookup_above habove, entryGap, if_pos habove]
  exact prevRead_reads_gap s c _

/-- A lookup of a valid entry raises its gap, and else answers; only an entry of the line above has one. -/
theorem historyLookup_reads_gap (hvalid : ichValidAt s k = true) :
    Reads (historyLookup s k c gs) (entryGap s k c gs) fun _ => True := by
  by_cases habove : 1 ≤ s.vPos ∧ 25 ≤ k
  · exact historyLookup_above_reads habove
  · have hentry : (ichEntry s k).valid = true := by
      simpa [ichValidAt, Bool.eq_false_iff.2 (ichIsAbove_iff.not.2 habove)] using hvalid
    rw [historyLookup_slot habove, if_pos hentry, entryGap, if_neg habove]
    exact reads_ok trivial

end Lookup

/-! ### `ICH_LOOKUP` -/

/-- Settles O36: `ICH_LOOKUP` runs behind its demands on the entry number and the position, and answers its entry or raises
that read's gap. -/
theorem ichLookupRule : Obligations.IchLookupRule := by
  intro s c k hrun hslice
  dsimp only
  have hstart : exec (.ichLookup c k) s = _ := unlessFaulted_needsSlice hrun hslice
  have hindex (hk : k < 32) : exec (.ichLookup c k) s = _ := hstart.trans (complete_demand_met (decide_eq_true hk))
  have hread (hk : k < 32) (low : 0 ≤ s.port.opA.toInt) (high : s.port.opA.toInt < s.width) :
      exec (.ichLookup c k) s = _ := (hindex hk).trans (complete_demand_met (decide_eq_true ⟨low, high⟩))
  have hgroup (low : 0 ≤ s.port.opA.toInt) :
      (groupStart s.opA.toNat : Int) = s.port.opA.toInt - s.port.opA.toInt % 3 := by
    rw [groupStart_cast, State.opA, Int.toNat_of_nonneg low]
  refine ⟨fun hk => ?_, fun hk hrange => ?_, fun hk low high hslot hvalid => ?_, fun hk low high hslot hvalid => ?_,
    fun hk0 hk low high hline info hgap => ?_, fun hk0 hk low high hline v hv => ?_⟩
  · exact hstart.trans (complete_demand_unmet (decide_eq_false (Nat.not_lt.2 hk)))
  · have hno : ¬ (0 ≤ s.opA ∧ s.opA < s.width) := by
      rw [State.opA]
      omega
    exact (hindex hk).trans (complete_demand_unmet (decide_eq_false hno))
  · have hlookup : historyLookup s k c (groupStart s.opA.toNat) = _ := historyLookup_slot (by omega)
    rw [if_pos hvalid] at hlookup
    exact (hread hk low high).trans (complete_writeRes (act_sense_ok hlookup))
  · have hlookup : historyLookup s k c (groupStart s.opA.toNat) = _ := historyLookup_slot (by omega)
    have hword : uninitAt .ich 0 k = raising .uninit (4 * 2 ^ 28 + k) := by
      have hsmall : (k : Int) % 2 ^ 16 = k := by omega
      rw [uninitAt, hsmall]
      simp [uninitSpaceCode]
    rw [if_neg (by simp [hvalid]), hword] at hlookup
    exact (hread hk low high).trans (complete_bind_raise (act_sense_error hlookup))
  · rw [← hgroup low] at hgap
    have hlookup := (historyLookup_above_reads ⟨hline, hk0⟩).raises hgap
    exact (hread hk low high).trans (complete_bind_raise (act_sense_error hlookup))
  · rw [← hgroup low] at hv
    have hlookup : historyLookup s k c (groupStart s.opA.toNat) = .ok (v.toNat : Int) := by
      rw [historyLookup_above ⟨hline, hk0⟩, prevRead_below hline]
      exact readCell_some hv
    exact (hread hk low high).trans (complete_writeRes (act_sense_ok hlookup))

/-! ### The differences of an original from the entries -/

section Diffs

variable {s : State} {i gs : Int}

/-- A list of reads raises the first gap of its reads in order. -/
theorem reads_readAll_gap {α β : Type} {f : α → Rd β} {gaps : α → List (Option Int)} {l : List α}
    (h : ∀ a ∈ l, Reads (f a) (firstGap (gaps a)) fun _ => True) :
    Reads (readAll f l) (firstGap (l.flatMap gaps)) fun _ => True := by
  induction l with
  | nil => exact reads_ok trivial
  | cons a l ih =>
    rw [List.flatMap_cons, firstGap_append]
    refine (h a List.mem_cons_self).bind fun b _ => ?_
    exact (ih fun a' ha' => h a' (List.mem_cons_of_mem _ ha')).bind_last fun bs _ => reads_ok trivial

/-- The comparison of a pixel with the valid entries raises the first gap of its reads (42_ich.md R265, R267, log entry
10). -/
theorem ichDiffs_reads_gap (s : State) (i gs : Int) :
    Reads (ichDiffs s i gs (ichValidList s)) (firstGap (pixelGaps s i gs)) fun _ => True := by
  refine reads_readAll_gap fun k hk =>
    Reads.bind_last (reads_readTri (R := fun _ _ => True) fun c => ?_) fun d _ => reads_ok trivial
  simp only [firstGap_cons]
  refine (origRead_reads s c i).bind fun x _ => ?_
  exact (historyLookup_reads_gap (mem_ichValidList.1 hk).2).bind fun v _ => reads_ok trivial

/-- The differences of a pixel with the components o from the entry with the values v. -/
def entryDiff (o v : Cpnt → Int) : Tri Nat :=
  ⟨absNat (o .i0 - v .i0), absNat (o .i1 - v .i1), absNat (o .i2 - v .i2)⟩

theorem entryDiff_get (o v : Cpnt → Int) (c : Cpnt) : ((entryDiff o v).get c : Int) = |o c - v c| := by
  rw [Int.abs_eq_natAbs]
  cases c <;> rfl

/-- The differences from the valid entries, where the original and the entries are written. -/
theorem ichDiffs_ok {o : Cpnt → Int} {v : Nat → Cpnt → Int} (ho : ∀ c, origRead s c i = .ok (o c))
    (hv : ∀ k < 32, ichValidAt s k = true → ∀ c, historyLookup s k c gs = .ok (v k c)) :
    ichDiffs s i gs (ichValidList s) = .ok ((ichValidList s).map fun k => (k, entryDiff o (v k))) := by
  refine readAll_ok fun k hk => ?_
  obtain ⟨hlt, hvalid⟩ := mem_ichValidList.1 hk
  have hdiff : ichDiff s i gs k = .ok (entryDiff o (v k)) := readTri_ok fun c => by
    rw [ho c, hv k hlt hvalid c]
    cases c <;> rfl
  rw [hdiff]
  rfl

/-- The difference is within the maximum quantization error when each component is (41_quantizer.md R237, 42_ich.md R265). -/
theorem withinErr_entryDiff (q : Tri Nat) (o v : Cpnt → Int) :
    withinErr q (entryDiff o v) = true ↔ ∀ c, |o c - v c| ≤ 2 ^ q.get c / 2 := by
  have hget (c : Cpnt) : |o c - v c| ≤ 2 ^ q.get c / 2 ↔ (entryDiff o v).get c ≤ maxQuantErr (q.get c) := by
    rw [← entryDiff_get, maxQuantErr]
    exact_mod_cast Iff.rfl
  simp only [hget, withinErr, decide_eq_true_eq]
  exact ⟨fun ⟨h0, h1, h2⟩ c => by cases c <;> assumption, fun h => ⟨h .i0, h .i1, h .i2⟩⟩

theorem weightedSad_entryDiff (o v : Cpnt → Int) :
    (weightedSad (entryDiff o v) : Int) = 2 * |o .i0 - v .i0| + |o .i1 - v .i1| + |o .i2 - v .i2| := by
  simp only [← entryDiff_get, weightedSad]
  push_cast
  rfl

end Diffs

/-! ### The encoder-only commands -/

/-- An encoder-only command runs in an encoder slice (30_encoding.md R132 check 6). -/
theorem unlessFaulted_encoderOnly {s : State} {f : Unit → Act Unit} (hrun : s.running) (henc : s.encoding) :
    unlessFaulted (encoderOnly >>= f) s = complete (f ()) s := by
  rw [unlessFaulted_running hrun]
  exact complete_demand_met (by simp [henc.1, henc.2])

/-! ### `ICH_TEST` -/

section Test

variable {s : State} {gs : Nat}

/-- The levels of the current QP, by component. -/
def masterLevelTri (s : State) : Tri Nat :=
  ⟨levelOf s .i0 s.masterQp, levelOf s .i1 s.masterQp, levelOf s .i2 s.masterQp⟩

theorem masterLevelTri_get (s : State) (c : Cpnt) : (masterLevelTri s).get c = levelOf s c s.masterQp := by
  cases c <;> rfl

theorem masterLevels_eq (legal : LegalConfig s) (hqp : s.masterQp ≤ maxQp s.bpc) :
    masterLevels s = .ok (masterLevelTri s) := readTri_levels legal hqp

/-- The test of the three pixels raises the first gap of their comparisons (42_ich.md R265). -/
theorem isOrigWithinQuantError_reads_gap (legal : LegalConfig s) (hqp : s.masterQp ≤ maxQp s.bpc) :
    Reads (isOrigWithinQuantError s gs) (firstGap ([0, 1, 2].flatMap fun i : Nat => pixelGaps s (gs + i : Nat) gs))
      fun _ => True := by
  have hpixels : [0, 1, 2].flatMap (fun i : Nat => pixelGaps s (gs + i : Nat) gs) =
      Idx3.all.flatMap fun i => pixelGaps s (gs + i.toNat) gs := rfl
  rw [hpixels, isOrigWithinQuantError, masterLevels_eq legal hqp]
  refine Reads.bind_last (r := readTri _) (reads_readTri (R := fun _ _ => True) fun i => ?_) fun ok _ => reads_ok trivial
  exact (ichDiffs_reads_gap s _ _).bind_last fun ds _ => reads_ok trivial

/-- A pixel with the components o is near some valid entry, the entries having the values v (42_ich.md R265). -/
def nearEntry (s : State) (v : Nat → Cpnt → Int) (o : Cpnt → Int) : Bool :=
  (ichValidList s).any fun k => withinErr (masterLevelTri s) (entryDiff o (v k))

theorem nearEntry_iff (s : State) (v : Nat → Cpnt → Int) (o : Cpnt → Int) :
    nearEntry s v o = true ↔
      ∃ k < 32, ichValidAt s k = true ∧ ∀ c, |o c - v k c| ≤ 2 ^ levelOf s c s.masterQp / 2 := by
  simp only [nearEntry, List.any_eq_true, mem_ichValidList, withinErr_entryDiff, masterLevelTri_get, and_assoc]

/-- The test of the three pixels, where the originals and the entries are written (42_ich.md R265). -/
theorem isOrigWithinQuantError_ok {o : Cpnt → Nat → Int} {v : Nat → Cpnt → Int} (legal : LegalConfig s)
    (hqp : s.masterQp ≤ maxQp s.bpc) (ho : ∀ c i, i < 3 → origRead s c (gs + i : Nat) = .ok (o c i))
    (hv : ∀ k < 32, ichValidAt s k = true → ∀ c, historyLookup s k c gs = .ok (v k c)) :
    isOrigWithinQuantError s gs =
      .ok (nearEntry s v (o · 0) && nearEntry s v (o · 1) && nearEntry s v (o · 2)) := by
  have hpixels : readTri (fun i : Pix => do
      let ds ← ichDiffs s (gs + i.toNat) gs (ichValidList s)
      .ok (ds.any fun d => withinErr (masterLevelTri s) d.2)) =
        .ok ⟨nearEntry s v (o · 0), nearEntry s v (o · 1), nearEntry s v (o · 2)⟩ := by
    refine readTri_ok fun i => ?_
    have hdiffs : ichDiffs s (gs + i.toNat) gs (ichValidList s) = _ := ichDiffs_ok (fun c => ho c i.toNat i.toNat_lt) hv
    rw [hdiffs]
    cases i <;> exact congrArg Except.ok List.any_map
  rw [isOrigWithinQuantError, masterLevels_eq legal hqp]
  exact congrArg (· >>= fun ok : Tri Bool => .ok (ok.a0 && ok.a1 && ok.a2)) hpixels

/-- Settles O37: `ICH_TEST` runs behind its demand on the group start, and answers whether each pixel is near an entry or
raises the first gap of the comparison. -/
theorem ichTestRule : Obligations.IchTestRule := by
  intro s gs o v hrun henc legal hqp
  have hstart : exec (.ichTest gs) s = _ := unlessFaulted_encoderOnly hrun henc
  have hread (hgs : gs % 3 = 0) (hw : gs < s.width) : exec (.ichTest gs) s = _ :=
    hstart.trans (complete_demand_met (decide_eq_true ⟨hgs, hw⟩))
  refine ⟨fun hrange => ?_, fun hgs hw info hgap => ?_, fun hgs hw ho hv => ?_⟩
  · have hno : ¬ (gs % 3 = 0 ∧ gs < s.width) := by omega
    exact hstart.trans (complete_demand_unmet (decide_eq_false hno))
  · have htest := (isOrigWithinQuantError_reads_gap legal hqp).raises hgap
    exact (hread hgs hw).trans (complete_bind_raise (act_sense_error htest))
  · have htest := isOrigWithinQuantError_ok legal hqp ho hv
    refine ⟨_, (hread hgs hw).trans ((complete_bind_ok (act_sense_ok htest)).trans (complete_ok (act_writeRes _ s))), ?_⟩
    simp only [Bool.and_eq_true, nearEntry_iff, and_assoc]
    constructor
    · rintro ⟨h0, h1, h2⟩ i hi
      match i, hi with
      | 0, _ => exact h0
      | 1, _ => exact h1
      | 2, _ => exact h2
    · exact fun h => ⟨h 0 (by decide), h 1 (by decide), h 2 (by decide)⟩

end Test

/-! ### `ICH_PICK` -/

section Pick

variable {s : State}

/-- Of entries in rising order the best is one of least SAD, and before it every SAD is greater (42_ich.md R267). -/
theorem bestEntry_least (d : Nat → Tri Nat) {ks : List Nat} (hks : ks.Pairwise (· < ·)) (hne : ks ≠ []) :
    ∃ k ∈ ks, bestEntry (ks.map fun k => (k, d k)) = some (k, weightedSad (d k)) ∧
      ∀ k' ∈ ks, weightedSad (d k) ≤ weightedSad (d k') ∧ (k' < k → weightedSad (d k) < weightedSad (d k')) := by
  induction ks with
  | nil => exact absurd rfl hne
  | cons a ks ih =>
    obtain ⟨hfirst, hrest⟩ := List.pairwise_cons.1 hks
    rcases eq_or_ne ks [] with rfl | hmore
    · exact ⟨a, List.mem_cons_self, rfl, by simp⟩
    · obtain ⟨k, hk, hbest, hleast⟩ := ih hrest hmore
      rw [List.map_cons, bestEntry, hbest]
      dsimp only
      split_ifs with hless
      · refine ⟨k, List.mem_cons_of_mem a hk, rfl, List.forall_mem_cons.2 ⟨⟨hless.le, fun _ => hless⟩, hleast⟩⟩
      · have hfirstLeast : ∀ k' ∈ ks, weightedSad (d a) ≤ weightedSad (d k') := fun k' hk' =>
          (Nat.not_lt.1 hless).trans (hleast k' hk').1
        exact ⟨a, List.mem_cons_self, rfl, List.forall_mem_cons.2 ⟨⟨le_rfl, fun h => absurd h (lt_irrefl a)⟩,
          fun k' hk' => ⟨hfirstLeast k' hk', fun h => absurd h (hfirst k' hk').asymm⟩⟩⟩

theorem ichValidList_rising (s : State) : (ichValidList s).Pairwise (· < ·) := List.pairwise_lt_range.filter _

/-- The pick from the entries compared, if the comparison answers (42_ich.md R267). -/
theorem pickBestHistoryValue_ok {h : Nat} {ds : List (Nat × Tri Nat)}
    (hds : ichDiffs s h (groupStart h) (ichValidList s) = .ok ds) :
    pickBestHistoryValue s h = .ok ((bestEntry ds).map Prod.fst) := by
  rw [pickBestHistoryValue, hds]
  rfl

theorem pickBestHistoryValue_reads_gap (s : State) (h : Nat) :
    Reads (pickBestHistoryValue s h) (firstGap (pixelGaps s h (groupStart h))) fun _ => True :=
  (ichDiffs_reads_gap s h _).bind_last fun _ _ => reads_ok trivial

/-- Settles O38: `ICH_PICK` runs behind its demand on the position, and answers the best entry of the comparison or raises
the first gap of it. -/
theorem ichPickRule : Obligations.IchPickRule := by
  intro s h o v hrun henc
  dsimp only
  have hstart : exec (.ichPick h) s = _ := unlessFaulted_encoderOnly hrun henc
  have hread (hpos : h < s.width + 2) : exec (.ichPick h) s = _ :=
    hstart.trans (complete_demand_met (decide_eq_true hpos))
  have hanswer (hpos : h < s.width + 2) {b : Option Nat} (hpick : pickBestHistoryValue s h = .ok b) :
      exec (.ichPick h) s = .next (s.withResult (b.elim (-1) fun k => k)) := by
    rw [hread hpos, complete_bind_ok (act_sense_ok hpick)]
    cases b <;> exact complete_ok (act_writeRes _ s)
  refine ⟨fun hfar => ?_, fun hpos info hgap => ?_, fun hpos hnone => ?_, fun hpos ho hv k0 hk0 hvalid0 => ?_⟩
  · exact hstart.trans (complete_demand_unmet (decide_eq_false (Nat.not_lt.2 hfar)))
  · have hpick := (pickBestHistoryValue_reads_gap s h).raises hgap
    exact (hread hpos).trans (complete_bind_raise (act_sense_error hpick))
  · have hempty : ichValidList s = [] := List.eq_nil_iff_forall_not_mem.2 fun k hk => by
      obtain ⟨hlt, hvalid⟩ := mem_ichValidList.1 hk
      simp [hnone k hlt] at hvalid
    have hdiffs : ichDiffs s h (groupStart h) (ichValidList s) = .ok [] := by
      rw [hempty]
      rfl
    exact hanswer hpos (pickBestHistoryValue_ok hdiffs)
  · have hne : ichValidList s ≠ [] := List.ne_nil_of_mem (mem_ichValidList.2 ⟨hk0, hvalid0⟩)
    obtain ⟨k, hk, hbest, hleast⟩ := bestEntry_least (fun k => entryDiff o (v k)) (ichValidList_rising s) hne
    obtain ⟨hlt, hvalid⟩ := mem_ichValidList.1 hk
    have hpick := pickBestHistoryValue_ok (ichDiffs_ok ho hv)
    rw [hbest] at hpick
    refine ⟨k, hlt, hanswer hpos hpick, hvalid, fun k' hk' hvalid' => ?_⟩
    obtain ⟨hle, hless⟩ := hleast k' (mem_ichValidList.2 ⟨hk', hvalid'⟩)
    simp only [← weightedSad_entryDiff]
    exact ⟨Int.ofNat_le.2 hle, fun hbefore => Int.ofNat_lt.2 (hless hbefore)⟩

end Pick
end Sys2Proof.Machine

namespace Sys2Proof.Machine

/-! ## The frame of the group commands in the rate registers

A group command writes the size registers in its size bookkeeping alone, and none of the other registers that rate control
reads. -/

/-- The image, the status registers and the QP, buffer, model and size registers are the same in two states. -/
structure RateFrame (s t : State) : Prop where
  mem : t.mem = s.mem
  st : t.st = s.st
  qp : t.qp = s.qp
  buf : t.buf = s.buf
  rc : t.rc = s.rc
  size : t.size = s.size

theorem RateFrame.refl (s : State) : RateFrame s s := ⟨rfl, rfl, rfl, rfl, rfl, rfl⟩

theorem RateFrame.trans {s t u : State} (h : RateFrame s t) (k : RateFrame t u) : RateFrame s u :=
  ⟨k.mem.trans h.mem, k.st.trans h.st, k.qp.trans h.qp, k.buf.trans h.buf, k.rc.trans h.rc, k.size.trans h.size⟩

section GroupFrame

variable {s : State}

theorem keeps_rateFrame {f : State → State} (h : ∀ u, RateFrame u (f u)) : Keeps (RateFrame s) (update f) :=
  keeps_update fun u hu => hu.trans (h u)

theorem rateFrame_streams (u : State) (io : BitIo) (h : RateFrame s u) : RateFrame s (u.withIo io) :=
  h.trans ⟨rfl, rfl, rfl, rfl, rfl, rfl⟩

theorem putBits_rateFrame (c : Cpnt) (n v : Nat) : Keeps (RateFrame s) (putBits c n v) :=
  keeps_putList rateFrame_streams c (toBits n v)

theorem getBits_rateFrame (c : Cpnt) (n : Nat) : Keeps (RateFrame s) (getBits c n) := keeps_getBits rateFrame_streams c n

/-! ### Flatness fields and units -/

theorem setFlatNext_rateFrame (f : FlatRec) (n : Nat) :
    Keeps (RateFrame s) (do update (fun s => s.setFlatNext f); pure n) :=
  keeps_bind (keeps_rateFrame fun _ => ⟨rfl, rfl, rfl, rfl, rfl, rfl⟩) fun _ => keeps_pure n

theorem encFlat_rateFrame (gs : Nat) : Keeps (RateFrame s) (encFlat gs) := by
  have hput (f : FlatRec) : Keeps (RateFrame s) (putFlatFields f) :=
    keeps_bind (putBits_rateFrame _ _ _) fun _ =>
      keeps_ite
        (keeps_bind (putBits_rateFrame _ _ _) fun _ => keeps_bind (putBits_rateFrame _ _ _) fun _ => keeps_pure _)
        (keeps_pure _)
  exact keeps_bind (keeps_look _) fun _ => keeps_ite
    (keeps_bind (keeps_look _) fun _ => keeps_ite
      (keeps_bind (keeps_sense _) fun f => keeps_bind (hput f) fun n => setFlatNext_rateFrame f n)
      (setFlatNext_rateFrame _ 0))
    (keeps_pure _)

theorem decFlat_rateFrame : Keeps (RateFrame s) decFlat := by
  have hget : Keeps (RateFrame s) getFlatFields :=
    keeps_bind (getBits_rateFrame _ _) fun _ =>
      keeps_ite (keeps_bind (getBits_rateFrame _ _) fun _ => keeps_bind (getBits_rateFrame _ _) fun _ => keeps_pure _)
        (keeps_pure _)
  exact keeps_bind (keeps_look _) fun _ => keeps_ite
    (keeps_bind (keeps_look _) fun _ =>
      keeps_ite (keeps_bind hget fun f => setFlatNext_rateFrame f.1 f.2) (setFlatNext_rateFrame _ 0))
    (keeps_pure _)

theorem writePixel_rateFrame (c : Cpnt) (gs : Nat) (i : Pix) (q : Nat) (p e : Int) :
    Keeps (RateFrame s) (writePixel c gs i q p e) :=
  keeps_rateFrame fun _ => ⟨rfl, rfl, rfl, rfl, rfl, rfl⟩

theorem encUnit_rateFrame (c : Cpnt) (gs : Nat) : Keeps (RateFrame s) (encUnit c gs) := by
  have hpixel (q : Nat) (i : Pix) (r0 r1 : Int) : Keeps (RateFrame s) (normalPixel c gs q i r0 r1) :=
    keeps_bind (keeps_sense _) fun _ => keeps_bind (keeps_sense _) fun _ =>
      keeps_bind (writePixel_rateFrame _ _ _ _ _ _) fun _ => keeps_pure _
  have hnormal (q : Nat) : Keeps (RateFrame s) (normalUnit c gs q) :=
    keeps_bind (hpixel _ _ _ _) fun _ => keeps_bind (hpixel _ _ _ _) fun _ => keeps_bind (hpixel _ _ _ _) fun _ =>
      keeps_pure _
  have hmpp (u : UnitPlan) : Keeps (RateFrame s) (mppUnit c gs u) :=
    keeps_bind (keeps_sense _) fun _ => keeps_forAll (fun _ =>
      keeps_bind (keeps_sense _) fun _ => writePixel_rateFrame _ _ _ _ _ _) _
  exact keeps_bind (keeps_sense _) fun _ => keeps_bind (hnormal _) fun _ => keeps_bind (keeps_look _) fun _ =>
    keeps_ite (keeps_bind (hmpp _) fun _ => keeps_pure _) (keeps_pure _)

theorem putUnit_rateFrame (l : Bool) (c : Cpnt) (u : UnitCode) : Keeps (RateFrame s) (putUnit l c u) := by
  have hres (n : Nat) (i : Pix) : Keeps (RateFrame s) (putResidual c n i) :=
    keeps_bind (keeps_look _) fun _ => putBits_rateFrame _ _ _
  exact keeps_bind (keeps_putList rateFrame_streams _ _) fun _ => keeps_bind (hres _ _) fun _ =>
    keeps_bind (hres _ _) fun _ => keeps_bind (hres _ _) fun _ => keeps_pure _

theorem decUnit_rateFrame (c : Cpnt) (gs : Nat) (l : Bool) (u : UnitPlan) (v : Nat) :
    Keeps (RateFrame s) (decUnit c gs l u v) := by
  have hres (n : Nat) : Keeps (RateFrame s) (getResidual c n) := keeps_bind (getBits_rateFrame _ _) fun _ => keeps_pure _
  have hpixel (q : Nat) (i : Pix) (r0 r1 e : Int) : Keeps (RateFrame s) (decPixel c gs q i r0 r1 e) :=
    keeps_bind (keeps_sense _) fun _ => writePixel_rateFrame _ _ _ _ _ _
  have hrecon (u : UnitCode) (e : Tri Int) : Keeps (RateFrame s) (decRecon c gs u e) :=
    keeps_ite
      (keeps_bind (keeps_sense _) fun _ => keeps_forAll (fun _ => writePixel_rateFrame _ _ _ _ _ _) _)
      (keeps_bind (hpixel _ _ _ _ _) fun _ => keeps_bind (hpixel _ _ _ _ _) fun _ => hpixel _ _ _ _ _)
  exact keeps_bind (hres _) fun _ => keeps_bind (hres _) fun _ => keeps_bind (hres _) fun _ =>
    keeps_bind (hrecon _ _) fun _ => keeps_pure _

/-! ### A group up to its size bookkeeping -/

theorem ichGroup_rateFrame (gs : Nat) (ks : Tri Nat) : Keeps (RateFrame s) (ichGroup gs ks) := by
  have hrecon (i : Pix) (c : Cpnt) : Keeps (RateFrame s) (ichRecon gs ks i c) :=
    keeps_bind (keeps_sense _) fun _ => keeps_rateFrame fun _ => ⟨rfl, rfl, rfl, rfl, rfl, rfl⟩
  have hscratch (i : Pix) (c : Cpnt) : Keeps (RateFrame s) (ichScratch gs i c) :=
    keeps_bind (keeps_sense _) fun _ => keeps_rateFrame fun _ => ⟨rfl, rfl, rfl, rfl, rfl, rfl⟩
  exact keeps_bind (keeps_forAll (fun _ => hrecon _ _) _) fun _ => keeps_forAll (fun _ => hscratch _ _) _

theorem setIchIdx_rateFrame (i : Pix) (k : Nat) :
    Keeps (RateFrame s) (update fun s => s.setIchIdx i k) :=
  keeps_rateFrame fun _ => ⟨rfl, rfl, rfl, rfl, rfl, rfl⟩

theorem encEmit_rateFrame (gs : Nat) (us : Tri UnitCode) (d : Option (Tri Nat)) :
    Keeps (RateFrame s) (encEmit gs us d) := by
  have hidx (ks : Tri Nat) (i : Pix) : Keeps (RateFrame s) (putIchIdx ks i) :=
    keeps_bind (putBits_rateFrame _ _ _) fun _ => keeps_bind (setIchIdx_rateFrame _ _) fun _ => keeps_pure _
  cases d with
  | some ks =>
    refine keeps_bind (keeps_look _) fun _ => keeps_bind ?_ fun _ => keeps_pure _
    exact keeps_bind (keeps_putList rateFrame_streams _ _) fun _ => keeps_bind (hidx _ _) fun _ =>
      keeps_bind (hidx _ _) fun _ => keeps_bind (hidx _ _) fun _ => keeps_bind (ichGroup_rateFrame _ _) fun _ =>
        keeps_pure _
  | none =>
    exact keeps_bind (keeps_look _) fun _ => keeps_bind (putUnit_rateFrame _ _ _) fun _ =>
      keeps_bind (putUnit_rateFrame _ _ _) fun _ => keeps_bind (putUnit_rateFrame _ _ _) fun _ => keeps_pure _

theorem decRead_rateFrame (gs : Nat) (us : Tri UnitPlan) : Keeps (RateFrame s) (decRead gs us) := by
  have hidx (i : Pix) : Keeps (RateFrame s) (getIchIdx i) :=
    keeps_bind (getBits_rateFrame _ _) fun _ => keeps_bind (keeps_demand _ _ _) fun _ =>
      keeps_bind (setIchIdx_rateFrame _ _) fun _ => keeps_pure _
  have hich : Keeps (RateFrame s) (getIchGroup gs) :=
    keeps_bind (hidx _) fun _ => keeps_bind (hidx _) fun _ => keeps_bind (hidx _) fun _ =>
      keeps_bind (ichGroup_rateFrame _ _) fun _ => keeps_pure _
  have hchroma (c : Cpnt) (l : Bool) (u : UnitPlan) : Keeps (RateFrame s) (decChroma c gs l u) :=
    keeps_bind (keeps_getUnary rateFrame_streams _ _) fun v => decUnit_rateFrame c gs l u v
  exact keeps_bind (keeps_look _) fun _ => keeps_bind (keeps_getUnary rateFrame_streams _ _) fun _ =>
    keeps_ite (keeps_bind hich fun _ => keeps_pure _)
      (keeps_bind (decUnit_rateFrame _ _ _ _ _) fun _ => keeps_bind (hchroma _ _ _) fun _ =>
        keeps_bind (hchroma _ _ _) fun _ => keeps_pure _)

/-! ### After it -/

theorem groupBookkeeping_rateFrame (gs : Nat) (g : GroupCode) : Keeps (RateFrame s) (groupBookkeeping gs g) := by
  have hwrite {f : State → State} (h : ∀ u, RateFrame u (f u)) : Keeps (RateFrame s) (update f) := keeps_rateFrame h
  have hpixel (i : Nat) : Keeps (RateFrame s) (ichUpdatePixel i) :=
    keeps_bind (keeps_sense _) fun _ => hwrite fun _ => ⟨rfl, rfl, rfl, rfl, rfl, rfl⟩
  have hcache : Keeps (RateFrame s) (ichUpdateGroup gs g.isIch) :=
    keeps_bind (keeps_look _) fun _ => keeps_ite (keeps_forAll (fun _ => hpixel _) _) (keeps_pure _)
  have hadvance : Keeps (RateFrame s) (groupAdvance gs) :=
    keeps_bind (hwrite fun _ => ⟨rfl, rfl, rfl, rfl, rfl, rfl⟩) fun _ =>
      keeps_bind (keeps_look _) fun _ => keeps_bind (keeps_fitU _ _ _) fun _ =>
        keeps_bind (hwrite fun _ => ⟨rfl, rfl, rfl, rfl, rfl, rfl⟩) fun _ => keeps_bind (keeps_fitU _ _ _) fun _ =>
          keeps_bind (hwrite fun _ => ⟨rfl, rfl, rfl, rfl, rfl, rfl⟩) fun _ => keeps_bind (keeps_look _) fun _ =>
            keeps_bind (keeps_fitU _ _ _) fun _ => keeps_bind (hwrite fun _ => ⟨rfl, rfl, rfl, rfl, rfl, rfl⟩) fun _ =>
              hwrite fun _ => ⟨rfl, rfl, rfl, rfl, rfl, rfl⟩
  exact keeps_bind hcache fun _ => keeps_bind (keeps_sense _) fun _ =>
    keeps_bind (hwrite fun _ => ⟨rfl, rfl, rfl, rfl, rfl, rfl⟩) fun _ => hadvance

end GroupFrame

/-! ## The rate registers through a group command -/

theorem cfg_of_mem {s t : State} (h : t.mem = s.mem) (f : PpsField) : t.cfg f = s.cfg f := by
  rw [State.cfg, State.cfg, h]

theorem RateInv.frame {s t : State} (h : RateInv s) (f : RateFrame s t) : RateInv t := fun ha =>
  have hs := h (f.st ▸ ha)
  have hcfg := cfg_of_mem f.mem
  { fullness := by simpa only [State.fullness, State.rcbBits, hcfg, f.buf] using hs.fullness
    masterQp := by simpa only [State.masterQp, State.bpc, hcfg, f.qp] using hs.masterQp
    prevQp := by simpa only [State.bpc, hcfg, f.qp] using hs.prevQp
    predQp := by simpa only [State.bpc, hcfg, f.size] using hs.predQp
    scale := by simpa only [f.rc] using hs.scale
    model := by simpa only [f.rc] using hs.model
    range := by simpa only [f.rc] using hs.range }

theorem keeps_rateInv_of_frame {α : Type} {m : Act α} (h : ∀ s, Keeps (RateFrame s) m) : Keeps RateInv m :=
  fun s hs => hs.frame (h s s (.refl s))

/-- The size bookkeeping takes the QP of the group for the next prediction, and else leaves the rate registers
(44_entropy.md R377). -/
theorem groupSizes_rateInv (bits : Nat) (g : GroupCode) : Keeps RateInv (groupSizes bits g) := by
  have hsizes (s : State) (hs : RateInv s) : RateInv (s.withSize (sizesAfter s g)) := fun ha => by
    have h := hs ha
    cases g with
    | ich => exact { h with }
    | units us => exact { h with predQp := h.masterQp }
  exact keeps_bind (keeps_update fun _ h ha => { h ha with }) fun _ => keeps_bind (keeps_demand _ _ _) fun _ =>
    keeps_bind (keeps_update fun _ h ha => { h ha with }) fun _ => keeps_bind (keeps_look _) fun _ =>
      keeps_bind (keeps_fitU _ _ _) fun _ => keeps_bind (keeps_update fun _ h ha => { h ha with }) fun _ =>
        keeps_update hsizes

theorem finishGroup_rateInv (gs bits : Nat) (g : GroupCode) : Keeps RateInv (finishGroup gs bits g) :=
  keeps_bind (groupSizes_rateInv bits g) fun _ =>
    keeps_bind (keeps_rateInv_of_frame fun _ => groupBookkeeping_rateFrame gs g) fun _ =>
      keeps_update fun _ h ha => { h ha with }

theorem encodeGroup_rateInv (gs : Nat) : Keeps RateInv (encodeGroup gs) :=
  keeps_bind (keeps_rateInv_of_frame fun _ => encFlat_rateFrame gs) fun _ =>
    keeps_bind (keeps_rateInv_of_frame fun _ => encUnit_rateFrame _ gs) fun _ =>
      keeps_bind (keeps_rateInv_of_frame fun _ => encUnit_rateFrame _ gs) fun _ =>
        keeps_bind (keeps_rateInv_of_frame fun _ => encUnit_rateFrame _ gs) fun _ =>
          keeps_bind (keeps_sense _) fun _ =>
            keeps_bind (keeps_rateInv_of_frame fun _ => encEmit_rateFrame gs _ _) fun _ => finishGroup_rateInv gs _ _

theorem decodeGroup_rateInv (gs : Nat) : Keeps RateInv (decodeGroup gs) :=
  keeps_bind (keeps_rateInv_of_frame fun _ => decFlat_rateFrame) fun _ => keeps_bind (keeps_sense _) fun _ =>
    keeps_bind (keeps_rateInv_of_frame fun _ => decRead_rateFrame gs _) fun _ => finishGroup_rateInv gs _ _

/-- A fault ends the slice. -/
theorem rateInv_enterFault (s : State) (r : Raise) : RateInv (s.enterFault r) := fun ha => by simp at ha

theorem execEncGroup_rateInv {s t : State} (h : RateInv s) (ht : execEncGroup s = .next t) : RateInv t :=
  unlessFaulted_keeps (keeps_bind (keeps_demand _ _ _) fun _ => keeps_bind (keeps_demand _ _ _) fun _ =>
    keeps_bind (keeps_look _) fun gs => encodeGroup_rateInv gs) (fun s r _ => rateInv_enterFault s r) h ht

theorem execDecGroup_rateInv {s t : State} (h : RateInv s) (ht : execDecGroup s = .next t) : RateInv t :=
  unlessFaulted_keeps (keeps_bind (keeps_demand _ _ _) fun _ => keeps_bind (keeps_demand _ _ _) fun _ =>
    keeps_bind (keeps_look _) fun gs => decodeGroup_rateInv gs) (fun s r _ => rateInv_enterFault s r) h ht

end Sys2Proof.Machine

namespace Sys2Proof.Machine

/-! ## The ranges that `RC_UPDATE` computes -/

/-! ### The QP -/

theorem maxQp_le (b : Nat) : maxQp b ≤ 23 := by
  unfold maxQp
  split <;> decide

/-- A legal QP is what its 5-bit register holds (10_state.md R37, R41). -/
theorem qp_ofInt_toNat {s : State} {q : Int} (low : 0 ≤ q) (high : q ≤ maxQp s.bpc) :
    ((BitVec.ofInt 5 q).toNat : Int) = q := by
  have := maxQp_le s.bpc
  rw [BitVec.toNat_ofInt]
  omega

/-- A step of the QP is at least 0, as both limits are (43_rate_control.md R320). -/
theorem rcIncrement_nonneg (s : State) : 0 ≤ rcIncrement s := by
  unfold rcIncrement
  dsimp only
  split_ifs <;> omega

/-- Each of the four branches of step 8 holds the QP between 0 and the greatest QP of the range (43_rate_control.md
R320). -/
theorem rcQp_range (s : State) : 0 ≤ rcQp s ∧ rcQp s ≤ s.cfg (.rangeMaxQp s.rc.rcRange.toNat) := by
  have hincr := rcIncrement_nonneg s
  unfold rcQp clampInt
  dsimp only
  split_ifs <;> omega

/-- The override of step 9 keeps a legal QP legal (43_rate_control.md R325). -/
theorem flatOverride_range {s : State} (legal : LegalConfig s) {q : Int} (low : 0 ≤ q) (high : q ≤ maxQp s.bpc) :
    0 ≤ flatOverride s q ∧ flatOverride s q ≤ maxQp s.bpc := by
  have hvery : (flatVeryQp s.bpc : Int) ≤ maxQp s.bpc := by
    rcases legal.bitsPerComponent with h | h | h <;> rw [h] <;> decide
  unfold flatOverride
  split
  · cases s.flat.flatThisGroup with
    | none => exact ⟨low, high⟩
    | somewhat =>
      refine ⟨le_max_right _ _, max_le (?_ : q - (flatSomewhatStep : Int) ≤ _) (low.trans high)⟩
      omega
    | very => exact ⟨Int.natCast_nonneg _, hvery⟩
  · exact ⟨low, high⟩

/-! ### The scale and the range -/

/-- The scale steps down only above 8, and up only to what its register holds (43_rate_control.md R310). -/
theorem rcNextScale_scale {s : State} (h : 8 ≤ s.rc.rcXformScale.toNat) : 8 ≤ (rcNextScale s).rcXformScale.toNat := by
  have hdown (hgt : 2 ^ rcScaleFracBits < s.rc.rcXformScale.toNat) : 8 ≤ (s.rc.rcXformScale - 1).toNat := by
    have hgt : 8 < s.rc.rcXformScale.toNat := hgt
    bv_omega
  have hup : 8 ≤ (BitVec.ofNat 6 (min 63 (s.rc.rcXformScale.toNat + 1))).toNat := by
    rw [BitVec.toNat_ofNat]
    omega
  unfold rcNextScale
  dsimp only
  split_ifs
  · exact hdown (And.right ‹_›)
  · exact h
  · exact h
  · exact hup
  · exact h
  · exact h

theorem rangeBelow_le (s : State) (model : Int) (j : Nat) : rangeBelow s model j ≤ j := by
  induction j with
  | zero => exact le_rfl
  | succ j ih =>
    unfold rangeBelow
    split_ifs
    · exact le_rfl
    · exact ih.trans (Nat.le_succ j)

theorem rangeBelow_toNat (s : State) (model : Int) :
    (BitVec.ofNat 4 (rangeBelow s model 14)).toNat = rangeBelow s model 14 := by
  have := rangeBelow_le s model 14
  rw [BitVec.toNat_ofNat]
  omega

/-! ## The rate registers through `RC_UPDATE` -/

/-- The ranges that the steps of an update keep: those of the QPs, the scale and the range throughout, that of the fullness
once it is bounded (step 3), and that of the model fullness once it is checked (step 6). -/
structure UpdateRanges (bounded modelled : Prop) (s : State) : Prop where
  legal : LegalConfig s
  masterQp : s.masterQp ≤ maxQp s.bpc
  prevQp : s.qp.prevQp.toNat ≤ maxQp s.bpc
  predQp : s.size.prevPredQp.toNat ≤ maxQp s.bpc
  scale : 8 ≤ s.rc.rcXformScale.toNat
  range : s.rc.rcRange.toNat ≤ 14
  fullness : bounded → 0 ≤ s.fullness ∧ s.fullness ≤ s.rcbBits
  model : modelled → s.rc.rcModelFullness.toInt < 0

/-- A value that fits its signed register is the register's value. -/
theorem ends_fitS {s : State} {reg : Nat} {x : Int} {Q : Word → State → Prop} {E : Raise → State → Prop}
    (hq : ∀ v : Word, v.toInt = x → Q v s) (he : ∀ r, E r s) : Ends (fitS reg x) s Q E := by
  by_cases hx : -2 ^ 31 ≤ x ∧ x < 2 ^ 31
  · exact ends_ok (by rw [act_fitS, if_pos hx]) (hq _ (BitVec.toInt_ofInt_eq_self (by decide) hx.1 hx.2))
  · exact ends_error (by rw [act_fitS, if_neg hx]) (he _)

section Update

variable {b m : Prop} {s : State}

theorem RateRanges.update (h : RateRanges s) (legal : LegalConfig s) : UpdateRanges False False s :=
  { h with legal := legal, fullness := False.elim, model := False.elim }

theorem UpdateRanges.rates (h : UpdateRanges True True s) : RateRanges s :=
  { h with fullness := h.fullness trivial, model := h.model trivial }

theorem UpdateRanges.pixels (h : UpdateRanges b m s) (n : Word) :
    UpdateRanges b m (s.withPos { s.pos with pixelCount := n }) := { h with legal := h.legal.of_mem rfl }

theorem UpdateRanges.buffer (h : UpdateRanges b m s) {v : BufRegs}
    (fullness : b → 0 ≤ v.bufferFullness.toInt ∧ v.bufferFullness.toInt ≤ s.rcbBits) : UpdateRanges b m (s.withBuf v) :=
  { h with legal := h.legal.of_mem rfl, fullness := fullness }

theorem UpdateRanges.transform (h : UpdateRanges b m s) {v : RcRegs} (scale : 8 ≤ v.rcXformScale.toNat)
    (range : v.rcRange.toNat ≤ 14) (model : m → v.rcModelFullness.toInt < 0) : UpdateRanges b m (s.withRc v) :=
  { h with legal := h.legal.of_mem rfl, scale := scale, range := range, model := model }

theorem UpdateRanges.flatness (h : UpdateRanges b m s) (v : FlatRegs) : UpdateRanges b m (s.withFlat v) :=
  { h with legal := h.legal.of_mem rfl }

theorem UpdateRanges.sizes (h : UpdateRanges b m s) {v : SizeRegs} (predQp : v.prevPredQp.toNat ≤ maxQp s.bpc) :
    UpdateRanges b m (s.withSize v) := { h with legal := h.legal.of_mem rfl, predQp := predQp }

/-! ### Steps 1 to 4: the buffer and the chunk -/

theorem rcAdd_ranges : Keeps (UpdateRanges False m) rcAdd :=
  keeps_bind (keeps_look _) fun _ => keeps_bind (keeps_fitS _ _) fun _ =>
    keeps_bind (keeps_update fun _ h => h.buffer False.elim) fun _ => keeps_bind (keeps_look _) fun _ =>
      keeps_bind (keeps_fitS _ _) fun _ => keeps_update fun _ h => h.buffer False.elim

theorem rcPixelTime_ranges : Keeps (UpdateRanges False m) rcPixelTime := by
  have hbits : Keeps (UpdateRanges False m) rcRemoveBits :=
    keeps_bind (keeps_look _) fun _ => keeps_bind (keeps_look _) fun _ => keeps_bind (keeps_fitS _ _) fun _ =>
      keeps_bind (keeps_look _) fun _ => keeps_bind (keeps_fitU _ _ _) fun _ =>
        keeps_update fun _ h => h.buffer False.elim
  exact keeps_bind (keeps_look _) fun _ => keeps_bind (keeps_fitU _ _ _) fun _ =>
    keeps_bind (keeps_update fun _ h => h.pixels _) fun _ => keeps_bind (keeps_look _) fun _ =>
      keeps_ite hbits (keeps_pure ())

theorem rcRemove_ranges : Keeps (UpdateRanges False m) rcRemove :=
  keeps_bind (keeps_look _) fun n => keeps_times rcPixelTime_ranges n

/-- The bounds pass only a fullness inside the buffer, or absorb a negative one (43_rate_control.md R307). -/
theorem rcBounds_ends (h : UpdateRanges False m s) : Ends rcBounds s (fun _ => UpdateRanges True m) fun _ _ => True := by
  have hraise : ∀ r : Raise, True := fun _ => trivial
  refine ends_bind (ends_demand (fun high => ends_bind (ends_look ?_)) hraise)
  split_ifs with negative
  · refine ends_bind (ends_demand (fun _ => ends_bind (ends_look (ends_bind (ends_fitU (fun v _ => ends_update ?_)
      hraise)))) hraise)
    have hzero : (0 : Word).toInt = 0 := rfl
    exact { h.buffer False.elim with fullness := fun _ => ⟨hzero.ge, hzero.trans_le (Int.natCast_nonneg _)⟩ }
  · simp only [decide_eq_true_eq] at high negative
    exact ends_ok (act_pure () s) { h with fullness := fun _ => ⟨Int.not_lt.1 negative, high⟩ }

/-- The end of a chunk: it is counted, and the next one counts its pixel-times from 0 (10_state.md R42, log entry 7). -/
def closeChunk : Act Unit := do
  let k ← look (fun s => s.buf.chunkIndex.toNat + 1)
  let k' ← fitU 32 0x0326 k
  update (fun s => s.withBuf { s.buf with chunkIndex := k', chunkPixelCount := 0 })

/-- Closing a chunk leaves the fullness. -/
theorem rcChunk_ranges : Keeps (UpdateRanges b m) rcChunk := by
  have hcbr : Keeps (UpdateRanges b m) rcChunkCbr :=
    keeps_bind (keeps_look _) fun _ => keeps_bind (keeps_fitS _ _) fun _ => keeps_update fun _ h => h.buffer h.fullness
  have hvbr : Keeps (UpdateRanges b m) rcChunkVbr :=
    keeps_bind (keeps_look _) fun _ => keeps_bind (keeps_demand _ _ _) fun _ =>
      keeps_bind (keeps_update fun _ h => { h with legal := h.legal.of_mem rfl }) fun _ => keeps_bind (keeps_look _) fun _ =>
        keeps_bind (keeps_fitU _ _ _) fun _ => keeps_update fun _ h => h.buffer h.fullness
  have hclose : Keeps (UpdateRanges b m) closeChunk :=
    keeps_bind (keeps_look _) fun _ => keeps_bind (keeps_fitU _ _ _) fun _ => keeps_update fun _ h => h.buffer h.fullness
  refine keeps_bind (keeps_look _) fun _ => keeps_ite (keeps_bind (keeps_look _) fun _ => ?_) (keeps_pure ())
  exact keeps_ite (keeps_bind hvbr fun _ => hclose) (keeps_bind hcbr fun _ => hclose)

/-! ### Steps 5 and 6: the model -/

theorem rcNextScale_rest (s : State) :
    (rcNextScale s).rcRange = s.rc.rcRange ∧ (rcNextScale s).rcModelFullness = s.rc.rcModelFullness := by
  unfold rcNextScale
  dsimp only
  split_ifs <;> exact ⟨rfl, rfl⟩

theorem rcTransform_ranges : Keeps (UpdateRanges b m) rcTransform := by
  have hscale (u : State) (h : UpdateRanges b m u) : UpdateRanges b m (u.withRc (rcNextScale u)) := by
    obtain ⟨range, model⟩ := rcNextScale_rest u
    exact h.transform (rcNextScale_scale h.scale) (range ▸ h.range) (model ▸ h.model)
  exact keeps_bind (keeps_look _) fun _ => keeps_bind (keeps_fitS _ _) fun _ =>
    keeps_bind (keeps_update fun _ h => h.transform h.scale h.range h.model) fun _ =>
      keeps_bind (keeps_update fun _ h => h.transform h.scale h.range h.model) fun _ => keeps_update hscale

/-- The check of step 6 passes only a negative model fullness (43_rate_control.md R312). -/
theorem rcModel_ends (h : UpdateRanges b False s) : Ends rcModel s (fun _ => UpdateRanges b True) fun _ _ => True := by
  have hraise : ∀ r : Raise, True := fun _ => trivial
  refine ends_bind (ends_look (ends_bind (ends_fitS (fun v _ => ?_) hraise)))
  refine ends_bind (ends_update (ends_demand (fun negative => ?_) hraise))
  exact { h.transform (v := { s.rc with rcModelFullness := v }) h.scale h.range False.elim with
    model := fun _ => of_decide_eq_true negative }

/-! ### Steps 6c to 10 -/

theorem rcSelectRange_ranges (h : UpdateRanges True True s) :
    Ends rcSelectRange s (fun _ => UpdateRanges True True) fun _ _ => True :=
  ends_update (h.transform h.scale ((rangeBelow_toNat s _).trans_le (rangeBelow_le s _ 14)) h.model)

theorem rcTarget_ranges : Keeps (UpdateRanges b m) rcTarget :=
  keeps_update fun _ h => h.transform h.scale h.range h.model

/-- The QP committed is legal (43_rate_control.md R325, R326). -/
theorem UpdateRanges.commit (h : UpdateRanges b m s) {q : Int} (low : 0 ≤ q) (high : q ≤ maxQp s.bpc) :
    UpdateRanges b m (s.withQp { prevQp := s.qp.masterQp, masterQp := BitVec.ofInt 5 (flatOverride s q) }) := by
  obtain ⟨low, high⟩ := flatOverride_range h.legal low high
  have hqp : (BitVec.ofInt 5 (flatOverride s q)).toNat ≤ maxQp s.bpc :=
    Int.ofNat_le.1 ((qp_ofInt_toNat low high).trans_le high)
  exact { h with legal := h.legal.of_mem rfl, masterQp := hqp, prevQp := h.masterQp }

theorem rcCommitQp_ranges (h : UpdateRanges b m s) : Ends rcCommitQp s (fun _ => UpdateRanges b m) fun _ _ => True := by
  have hmax : (s.cfg (.rangeMaxQp s.rc.rcRange.toNat) : Int) ≤ maxQp s.bpc :=
    Int.ofNat_le.2 (h.legal.rangeMaxLegal _ (Nat.lt_succ_of_le h.range))
  obtain ⟨low, high⟩ := rcQp_range s
  have hflat := (h.flatness (flatShift s.flat)).flatness { flatShift s.flat with
    flatThisGroup := flatnessOf (flatShift s.flat) }
  have hqp := hflat.commit low (high.trans hmax)
  refine ends_bind (ends_look (ends_bind (ends_update (ends_bind (ends_update ?_)))))
  refine ends_bind (ends_look (ends_bind (ends_update (ends_update ?_))))
  exact hqp.sizes hqp.predQp

/-- An update that runs to its end leaves the rate registers in range. -/
theorem execRcUpdate_rateInv {t : State} (hc : ControlInv s) (h : RateInv s) (ht : execRcUpdate s = .next t) :
    RateInv t := by
  have hcut : ∀ (r : Raise) (u : State), RateInv (u.enterFault r) := fun r u => rateInv_enterFault u r
  refine unlessFaulted_ends h (ends_bind (ends_demand (fun _ => ends_bind (ends_demand (fun pending => ?_) fun r =>
    hcut r s)) fun r => hcut r s)) ht
  have active : s.st.sliceActive = true := hc.lineActive (hc.pendingLine pending)
  have h0 := (h active).update (hc.validLegal (hc.activeValid active))
  have cut {α : Type} {p : Act α} {u : State} {Q : α → State → Prop} (hp : Ends p u Q fun _ _ => True) :
      Ends p u Q fun r u => RateInv (u.enterFault r) := ⟨hp.answers, fun r u _ => hcut r u⟩
  have kept {α : Type} {p : Act α} {P : State → Prop} {u : State} (hp : Keeps P p) (hu : P u) :
      Ends p u (fun _ => P) fun r u => RateInv (u.enterFault r) :=
    ends_of_keeps hp hu (fun _ _ hv => hv) fun r u _ => hcut r u
  refine ends_bind ((kept rcAdd_ranges h0).mono fun _ u1 h1 => ?_)
  refine ends_bind ((kept rcRemove_ranges h1).mono fun _ u2 h2 => ?_)
  refine ends_bind ((cut (rcBounds_ends h2)).mono fun _ u3 h3 => ?_)
  refine ends_bind ((kept rcChunk_ranges h3).mono fun _ u4 h4 => ?_)
  refine ends_bind ((kept rcTransform_ranges h4).mono fun _ u5 h5 => ?_)
  refine ends_bind ((cut (rcModel_ends h5)).mono fun _ u6 h6 => ?_)
  refine ends_bind ((cut (rcSelectRange_ranges h6)).mono fun _ u7 h7 => ?_)
  refine ends_bind ((kept rcTarget_ranges h7).mono fun _ u8 h8 => ?_)
  refine ends_bind ((cut (rcCommitQp_ranges h8)).mono fun _ u9 h9 => ?_)
  exact ends_bind (ends_update (ends_bind (ends_update (ends_bind (ends_look (ends_update fun _ =>
    { h9.rates with }))))))

end Update

/-! ## The rate registers through every command -/

/-- The rate registers at slice start: the legal initial scale, and minus the model size (70_reset_and_hazards.md R484). -/
theorem sliceBegun_rateRanges {s : State} (legal : LegalConfig s) (d : Bool) : RateRanges (s.sliceBegun d) := by
  have hmodel : s.cfg .rcModelSize < 2 ^ 16 := ppsBits_lt _ _ _
  have hzero : (0 : Word).toInt = 0 := rfl
  obtain ⟨scaleLow, scaleHigh⟩ := legal.initialScale
  have hscale : (BitVec.ofNat 6 (s.cfg .initialScaleValue)).toNat = s.cfg .initialScaleValue := by
    rw [BitVec.toNat_ofNat]
    omega
  have hnegative : (BitVec.ofInt 32 (-(s.cfg .rcModelSize : Int))).toInt < 0 := by
    have := legal.rcModelSize
    rw [BitVec.toInt_ofInt_eq_self (by decide) (by omega) (by omega)]
    omega
  exact
    { fullness := ⟨hzero.ge, hzero.trans_le (Int.natCast_nonneg _)⟩
      masterQp := Nat.zero_le _
      prevQp := Nat.zero_le _
      predQp := Nat.zero_le _
      scale := hscale ▸ scaleLow
      model := hnegative
      range := Nat.zero_le _ }

/-- The effects of the commands that code no group and update no rate write no rate register but at slice start. -/
theorem RateInv.effect {i : Instr} {s t : State} (hc : ControlInv s) (h : RateInv s) (hgroup : ¬ IsGroup i)
    (hrate : i ≠ .rcUpdate) (e : Effect i s t) : RateInv t := by
  cases e with
  | hold => exact h
  | result | origWr => exact h.frame ⟨rfl, rfl, rfl, rfl, rfl, rfl⟩
  | cfgByte _ free | cfgThresh _ _ free | checkPassed free => exact fun ha => absurd ha (Bool.eq_false_iff.1 free)
  | sliceStart d _ valid => exact fun _ => sliceBegun_rateRanges (hc.validLegal valid) d
  | lineStart active =>
    have hich : RateFrame s s.lineIch := by
      unfold State.lineIch
      split <;> exact ⟨rfl, rfl, rfl, rfl, rfl, rfl⟩
    exact h.frame (hich.trans ⟨rfl, rfl, rfl, rfl, rfl, rfl⟩)
  | lineEnd active => exact fun _ => { h active with }
  | groupCut _ group | groupUnfit _ _ group | group _ _ group => exact absurd group hgroup
  | rate | rateCut => exact absurd rfl hrate
  | fault _ _ r | checkFailed r | startRefused _ r | lineEndCut r | lineEndUnfit r => exact rateInv_enterFault _ r

theorem exec_rateInv (i : Instr) {s t : State} (hc : ControlInv s) (h : RateInv s) (ht : exec i s = .next t) :
    RateInv t := by
  by_cases hgroup : IsGroup i
  · rcases hgroup with rfl | rfl
    · exact execEncGroup_rateInv h ht
    · exact execDecGroup_rateInv h ht
  · by_cases hrate : i = .rcUpdate
    · subst hrate
      exact execRcUpdate_rateInv hc h ht
    · exact h.effect hc hgroup hrate (exec_effect i ht)

/-- Settles O57: every command keeps the rate registers of an active slice in range, and a word that encodes none faults or
is discarded. -/
theorem rateRangesKept : Obligations.RateRangesKept := by
  intro s t hc h ht
  cases hq : s.pending with
  | nil => exact Host.Outcome.next.inj (step_idle hq ▸ ht) ▸ h
  | cons c rest =>
    rw [step_presented hq] at ht
    have hpresented : RateInv (s.present c rest) := h.frame ⟨rfl, rfl, rfl, rfl, rfl, rfl⟩
    have hcontrol : ControlInv (s.present c rest) := { hc with validLegal := fun hv => (hc.validLegal hv).of_mem rfl }
    cases hd : decode c.word with
    | ok i => exact exec_rateInv i hcontrol hpresented (execWord_decoded hd _ ▸ ht)
    | error e =>
      have heffect := illegalWord_effect (execWord_illegal hd _ ▸ ht)
      exact hpresented.effect hcontrol (by simp [IsGroup]) (by simp) heffect

end Sys2Proof.Machine

namespace Sys2Proof.Machine

/-! ## The command `FLAT_DETECT` -/

section Detect

variable {s : State}

/-- What `FLAT_DETECT` answers for a list of candidate positions: the class of the first flat one, with its position
(43_rate_control.md R337, R340). -/
def detectResult (s : State) (gs qp : Nat) : List Nat → Nat
  | [] => 0
  | p :: rest =>
    if flatClassOf s (heldOrig s) qp (gs + 12 + 3 * p) ≠ 0 then
      flatClassOf s (heldOrig s) qp (gs + 12 + 3 * p) + 16 * p
    else detectResult s gs qp rest

theorem flatClassOf_outside {o : Cpnt → Nat → Sample} {gsj : Nat} (h : s.width ≤ gsj) (qp : Nat) :
    flatClassOf s o qp gsj = 0 := if_pos h

/-- No candidate outside the line is flat. -/
theorem detectResult_outside {gs : Nat} (qp : Nat) {l : List Nat} (h : ∀ p ∈ l, s.width ≤ gs + 12 + 3 * p) :
    detectResult s gs qp l = 0 := by
  induction l with
  | nil => rfl
  | cons p l ih =>
    obtain ⟨hfirst, hrest⟩ := List.forall_mem_cons.1 h
    rw [detectResult, if_neg (not_not.2 (flatClassOf_outside hfirst qp))]
    exact ih hrest

/-- The result of a flat record carries its position (43_rate_control.md R340). -/
theorem flatResult_valid (very : Bool) {p : Nat} (h : p < 4) :
    flatResult ⟨true, very, BitVec.ofNat 2 p⟩ = 1 + very.toNat + 16 * p := by
  have hpos : (BitVec.ofNat 2 p).toNat = p := by
    rw [BitVec.toNat_ofNat]
    omega
  rw [flatResult, if_pos rfl, hpos, Nat.mul_comm]

/-- The detection over rising positions raises its gap, and else reports the first flat candidate (43_rate_control.md R336,
R337). -/
theorem flatScan_reads_result (legal : LegalConfig s) (gs : Nat) {qp : Nat} (hqp : qp ≤ maxQp s.bpc) {l : List Nat}
    (rising : l.Pairwise (· < ·)) (bound : ∀ p ∈ l, p < 4) :
    Reads (flatScan s gs qp l) (flatGap s gs qp l) fun f => flatResult f = detectResult s gs qp l := by
  induction l with
  | nil => exact reads_ok rfl
  | cons p l ih =>
    obtain ⟨hfirst, hrising⟩ := List.pairwise_cons.1 rising
    obtain ⟨hp, hbound⟩ := List.forall_mem_cons.1 bound
    by_cases hend : s.width ≤ gs + 12 + 3 * p
    · have hall : ∀ p' ∈ p :: l, s.width ≤ gs + 12 + 3 * p' := List.forall_mem_cons.2 ⟨hend, fun p' hp' => by
        have := hfirst p' hp'
        omega⟩
      rw [flatScan, flatGap, if_pos hend, if_pos hend, detectResult_outside qp hall]
      exact reads_ok rfl
    · rw [flatScan, flatGap_cons s gs qp p l (Nat.not_le.1 hend), if_neg hend, detectResult]
      refine (flatClass_reads legal hqp (Nat.not_le.1 hend)).bind fun k hk => ?_
      rw [← hk]
      cases k with
      | none => exact ih hrising hbound
      | somewhat => exact reads_ok (flatResult_valid false hp)
      | very => exact reads_ok (flatResult_valid true hp)

/-- The class of a candidate depends on the originals of the line alone. -/
theorem flatClassOf_of_origIs {o : Cpnt → Nat → Sample} (ho : s.origIs o) (hw : 1 ≤ s.width) (qp gsj : Nat) :
    flatClassOf s o qp gsj = flatClassOf s (heldOrig s) qp gsj := by
  have held (c : Cpnt) (i : Int) : heldOrig s c (edgeIndex s.width i) = o c (edgeIndex s.width i) := by
    rw [heldOrig, ho c _ (edgeIndex_lt hw i), Option.getD_some]
  simp only [flatClassOf, held]

/-- Settles O40: `FLAT_DETECT` runs behind its demands on the group start and the QP, and answers the detection's result or
raises its gap. -/
theorem flatDetectRule : Obligations.FlatDetectRule := by
  intro s gs hrun henc legal
  dsimp only
  have hstart : exec (.flatDetect gs) s = _ := unlessFaulted_encoderOnly hrun henc
  have hplace (hgs : gs % 3 = 0) (hw : gs < s.width) : exec (.flatDetect gs) s = _ :=
    hstart.trans (complete_demand_met (decide_eq_true ⟨hgs, hw⟩))
  have hread (hgs : gs % 3 = 0) (hw : gs < s.width) (low : 0 ≤ s.opA) (high : s.opA ≤ maxQp s.bpc) :
      exec (.flatDetect gs) s = _ := (hplace hgs hw).trans (complete_demand_met (decide_eq_true ⟨low, high⟩))
  have hdetect (low : 0 ≤ s.opA) (high : s.opA ≤ maxQp s.bpc) :
      Reads (flatDetect s gs s.opA) (flatGap s gs s.opA.toNat [0, 1, 2, 3]) fun f =>
        flatResult f = detectResult s gs s.opA.toNat [0, 1, 2, 3] := by
    have hscan := flatScan_reads_result legal gs (qp := s.opA.toNat) (by omega) (l := [0, 1, 2, 3]) (by decide) (by decide)
    rwa [Int.toNat_of_nonneg low] at hscan
  refine ⟨fun hrange => ?_, fun hgs hw hqp => ?_, fun hgs hw low high info hgap => ?_,
    fun hgs hw low high hgap => ?_, fun o ho => ?_⟩
  · have hno : ¬ (gs % 3 = 0 ∧ gs < s.width) := by omega
    exact hstart.trans (complete_demand_unmet (decide_eq_false hno))
  · have hno : ¬ (0 ≤ s.opA ∧ s.opA ≤ maxQp s.bpc) := by
      rw [State.opA]
      omega
    exact (hplace hgs hw).trans (complete_demand_unmet (decide_eq_false hno))
  · exact (hread hgs hw low high).trans (complete_bind_raise (act_sense_error ((hdetect low high).raises hgap)))
  · have hanswer := hdetect low high
    rw [show flatGap s gs s.opA.toNat [0, 1, 2, 3] = none from hgap] at hanswer
    obtain ⟨f, hf, hresult⟩ := hanswer
    rw [hread hgs hw low high, complete_bind_ok (act_sense_ok hf), hresult]
    exact complete_ok (act_writeRes _ s)
  · exact ⟨flatGap_of_origIs ho legal.sliceWidth.1 gs _ _, fun p => flatClassOf_of_origIs ho legal.sliceWidth.1 _ _⟩

end Detect

end Sys2Proof.Machine

namespace Sys2Proof.Machine

/-! ## The steps of `RC_UPDATE` in closed form -/

/-! ### Values that fit their registers -/

theorem word_toInt {x : Int} (low : -2 ^ 31 ≤ x) (high : x < 2 ^ 31) : (BitVec.ofInt 32 x).toInt = x :=
  BitVec.toInt_ofInt_eq_self (by decide) low high

theorem word_toNat {x : Int} (low : 0 ≤ x) (high : x < 2 ^ 32) : ((BitVec.ofInt 32 x).toNat : Int) = x := by
  rw [BitVec.toNat_ofInt]
  omega

theorem ofNat_toNat_of_lt {w n : Nat} (h : n < 2 ^ w) : (BitVec.ofNat w n).toNat = n :=
  (BitVec.toNat_ofNat n w).trans (Nat.mod_eq_of_lt h)

theorem fitS_fits {reg : Nat} {x : Int} (low : -2 ^ 31 ≤ x) (high : x < 2 ^ 31) (s : State) :
    fitS reg x s = .ok (BitVec.ofInt 32 x) s := by rw [act_fitS, if_pos ⟨low, high⟩]

theorem fitU_fits {reg : Nat} {x : Int} (low : 0 ≤ x) (high : x < 2 ^ 32) (s : State) :
    fitU 32 reg x s = .ok (BitVec.ofInt 32 x) s := by rw [act_fitU, if_pos ⟨low, high⟩]

theorem fullness_lt (s : State) : s.fullness < 2 ^ 31 := BitVec.toInt_lt

theorem le_fullness (s : State) : -2 ^ 31 ≤ s.fullness := BitVec.le_toInt _

theorem ofInt_fullness (s : State) : BitVec.ofInt 32 s.fullness = s.buf.bufferFullness := BitVec.ofInt_toInt

/-! ### Step 2: the pixel-times -/

section PixelTimes

variable {s : State}

/-- The pixel-times of n that pass after the initial delay (43_rate_control.md R306). -/
def lateTimes (s : State) (n : Nat) : Nat :=
  s.pos.pixelCount.toNat + n - max s.pos.pixelCount.toNat (s.cfg .initialXmitDelay)

/-- The sixteenths of a bit that n pixel-times accumulate, before the carries (43_rate_control.md R306). -/
def lateFrac (s : State) (n : Nat) : Nat := s.buf.bpgFracAccum.toNat + lateTimes s n * (s.cfg .bitsPerPixel % 16)

/-- The fullness after n pixel-times (43_rate_control.md R306). -/
def lateFullness (s : State) (n : Nat) : Int :=
  s.fullness - (lateTimes s n * (s.cfg .bitsPerPixel / 16) : Nat) - (lateFrac s n / 16 : Nat)

/-- The state after n pixel-times (43_rate_control.md R306). -/
def afterTimes (s : State) (n : Nat) : State :=
  { s with
    pos := { s.pos with pixelCount := BitVec.ofNat 32 (s.pos.pixelCount.toNat + n) }
    buf :=
      { s.buf with
        bufferFullness := BitVec.ofInt 32 (lateFullness s n)
        bpgFracAccum := BitVec.ofNat 4 (lateFrac s n % 16)
        removalStarted := s.buf.removalStarted || decide (0 < lateTimes s n)
        chunkPixelCount := BitVec.ofNat 32 (s.buf.chunkPixelCount.toNat + lateTimes s n) } }

theorem lateTimes_zero (s : State) : lateTimes s 0 = 0 := by
  unfold lateTimes
  omega

theorem lateTimes_succ_early {n : Nat} (h : s.pos.pixelCount.toNat + n < s.cfg .initialXmitDelay) :
    lateTimes s (n + 1) = 0 ∧ lateTimes s n = 0 := by
  unfold lateTimes
  omega

theorem lateTimes_succ_late {n : Nat} (h : s.cfg .initialXmitDelay ≤ s.pos.pixelCount.toNat + n) :
    lateTimes s (n + 1) = lateTimes s n + 1 := by
  unfold lateTimes
  omega

theorem lateTimes_le (s : State) (n : Nat) : lateTimes s n ≤ n := by
  unfold lateTimes
  omega

/-- Each pixel-time after the delay removes the whole bits and the carry of the fraction (43_rate_control.md R306). -/
theorem lateFullness_succ_late {n : Nat} (h : s.cfg .initialXmitDelay ≤ s.pos.pixelCount.toNat + n) :
    lateFullness s (n + 1) = lateFullness s n - (s.cfg .bitsPerPixel / 16 : Nat)
        - ((lateFrac s n % 16 + s.cfg .bitsPerPixel % 16) / 16 : Nat) ∧
      lateFrac s (n + 1) % 16 = (lateFrac s n % 16 + s.cfg .bitsPerPixel % 16) % 16 := by
  simp only [lateFullness, lateFrac, lateTimes_succ_late h, Nat.succ_mul]
  omega

theorem lateFullness_succ_early {n : Nat} (h : s.pos.pixelCount.toNat + n < s.cfg .initialXmitDelay) :
    lateFullness s (n + 1) = lateFullness s n ∧ lateFrac s (n + 1) = lateFrac s n := by
  obtain ⟨h1, h0⟩ := lateTimes_succ_early h
  simp only [lateFullness, lateFrac, h0, h1, and_self]

theorem lateFullness_le (s : State) (n : Nat) : lateFullness s n ≤ s.fullness := by
  unfold lateFullness
  omega

theorem lateFullness_antitone (s : State) (n : Nat) : lateFullness s (n + 1) ≤ lateFullness s n := by
  rcases Nat.lt_or_ge (s.pos.pixelCount.toNat + n) (s.cfg .initialXmitDelay) with h | h
  · exact (lateFullness_succ_early h).1.le
  · have := (lateFullness_succ_late h).1
    omega

theorem afterTimes_zero (s : State) : afterTimes s 0 = s := by
  have hfrac := s.buf.bpgFracAccum.isLt
  simp [afterTimes, lateFullness, lateFrac, lateTimes_zero, Nat.mod_eq_of_lt hfrac, Nat.div_eq_of_lt hfrac, ofInt_fullness]

/-- The removal of one pixel-time after the delay: the whole bits and the carry of the fraction (43_rate_control.md
R306). -/
theorem rcRemoveBits_eq {full : Int} {frac count : Nat}
    (hfull : s.fullness - (s.cfg .bitsPerPixel / 16 : Nat)
      - ((s.buf.bpgFracAccum.toNat + s.cfg .bitsPerPixel % 16) / 16 : Nat) = full)
    (hfrac : (s.buf.bpgFracAccum.toNat + s.cfg .bitsPerPixel % 16) % 16 = frac)
    (hcount : s.buf.chunkPixelCount.toNat + 1 = count) (low : -2 ^ 31 ≤ full) (high : count < 2 ^ 32) :
    rcRemoveBits s =
      .ok ()
        (s.withBuf
          { s.buf with
            removalStarted := true
            bufferFullness := BitVec.ofInt 32 full
            bpgFracAccum := BitVec.ofNat 4 frac
            chunkPixelCount := BitVec.ofNat 32 count }) := by
  subst hfull hfrac hcount
  have hlt := fullness_lt s
  rw [rcRemoveBits, act_bind_ok (act_look _ s), act_bind_ok (act_look _ s), act_bind_ok (fitS_fits low (by omega) s),
    act_bind_ok (act_look _ s), act_bind_ok (fitU_fits (by omega) (by omega) s)]
  rfl

/-- A pixel-time is counted, and removes bits after the delay alone (43_rate_control.md R306). -/
theorem rcPixelTime_eq (pixels : s.pos.pixelCount.toNat + 1 < 2 ^ 32) :
    rcPixelTime s =
      (if s.cfg .initialXmitDelay ≤ s.pos.pixelCount.toNat then rcRemoveBits else pure ())
        (s.withPos { s.pos with pixelCount := BitVec.ofNat 32 (s.pos.pixelCount.toNat + 1) }) := by
  have hcount : (BitVec.ofNat 32 (s.pos.pixelCount.toNat + 1)).toNat = s.pos.pixelCount.toNat + 1 :=
    ofNat_toNat_of_lt pixels
  have helapsed : decide (s.cfg .initialXmitDelay < (BitVec.ofNat 32 (s.pos.pixelCount.toNat + 1)).toNat) = true ↔
      s.cfg .initialXmitDelay ≤ s.pos.pixelCount.toNat := by
    rw [hcount, decide_eq_true_eq, Nat.lt_succ_iff]
  rw [rcPixelTime, act_bind_ok (act_look _ s), act_bind_ok (fitU_fits (by omega) (by omega) s),
    act_bind_ok (act_update _ s)]
  exact (act_bind_ok (act_look _ _)).trans (congrFun (if_congr helapsed rfl rfl) _)

/-- One more pixel-time, before or after the delay. -/
theorem rcPixelTime_afterTimes {n : Nat} (pixels : s.pos.pixelCount.toNat + (n + 1) < 2 ^ 32)
    (chunkPixels : s.buf.chunkPixelCount.toNat + (n + 1) < 2 ^ 32) (low : -2 ^ 31 ≤ lateFullness s (n + 1)) :
    rcPixelTime (afterTimes s n) = .ok () (afterTimes s (n + 1)) := by
  have hfull := fullness_lt s
  have hle := lateFullness_le s n
  have hanti := lateFullness_antitone s n
  have hlate := lateTimes_le s n
  have hcount : (afterTimes s n).pos.pixelCount.toNat = s.pos.pixelCount.toNat + n := ofNat_toNat_of_lt (by omega)
  have hchunk : (afterTimes s n).buf.chunkPixelCount.toNat = s.buf.chunkPixelCount.toNat + lateTimes s n :=
    ofNat_toNat_of_lt (by omega)
  have hnow : (afterTimes s n).fullness = lateFullness s n := word_toInt (by omega) (by omega)
  have hfrac : (afterTimes s n).buf.bpgFracAccum.toNat = lateFrac s n % 16 := ofNat_toNat_of_lt (by omega)
  have hcfg (f : PpsField) : (afterTimes s n).cfg f = s.cfg f := rfl
  rcases Nat.lt_or_ge (s.pos.pixelCount.toNat + n) (s.cfg .initialXmitDelay) with early | late
  · obtain ⟨htimes', htimes⟩ := lateTimes_succ_early early
    obtain ⟨hfullness, hfrac'⟩ := lateFullness_succ_early early
    rw [rcPixelTime_eq (by omega), hcount, hcfg, if_neg (Nat.not_le.2 early), act_pure]
    simp only [afterTimes, State.withPos, htimes, htimes', hfullness, hfrac', Nat.add_assoc]
  · obtain ⟨hfullness, hfrac'⟩ := lateFullness_succ_late late
    have htimes := lateTimes_succ_late late
    have hstarted : (s.buf.removalStarted || decide (0 < lateTimes s (n + 1))) = true := by simp [htimes]
    rw [rcPixelTime_eq (by omega), hcount, hcfg, if_pos late]
    refine (rcRemoveBits_eq (full := lateFullness s (n + 1)) (frac := lateFrac s (n + 1) % 16)
      (count := s.buf.chunkPixelCount.toNat + lateTimes s (n + 1)) ?_ ?_ ?_ low (by omega)).trans (congrArg _ ?_)
    · show (afterTimes s n).fullness - (s.cfg .bitsPerPixel / 16 : Nat)
        - (((afterTimes s n).buf.bpgFracAccum.toNat + s.cfg .bitsPerPixel % 16) / 16 : Nat) = _
      rw [hnow, hfrac, hfullness]
    · show ((afterTimes s n).buf.bpgFracAccum.toNat + s.cfg .bitsPerPixel % 16) % 16 = _
      rw [hfrac, hfrac']
    · show (afterTimes s n).buf.chunkPixelCount.toNat + 1 = _
      rw [hchunk, htimes, Nat.add_assoc]
    · simp only [afterTimes, State.withPos, State.withBuf, hstarted, Nat.add_assoc]

/-- A piece done once more, last. -/
theorem times_succ_last (f : Act Unit) (n : Nat) : times f (n + 1) = times f n >>= fun _ => f := by
  induction n with
  | zero => simp [times_succ]
  | succ n ih =>
    calc times f (n + 1 + 1)
      _ = f >>= fun _ => times f n >>= fun _ => f := by rw [times_succ, ih]
      _ = (f >>= fun _ => times f n) >>= fun _ => f := (bind_assoc f _ _).symm
      _ = times f (n + 1) >>= fun _ => f := by rw [times_succ]

/-- Pixel-times in any number run to the closed form, where its values fit the registers (43_rate_control.md R306). -/
theorem times_rcPixelTime {n : Nat} (pixels : s.pos.pixelCount.toNat + n < 2 ^ 32)
    (chunkPixels : s.buf.chunkPixelCount.toNat + n < 2 ^ 32) (low : -2 ^ 31 ≤ lateFullness s n) :
    times rcPixelTime n s = .ok () (afterTimes s n) := by
  induction n with
  | zero => exact congrArg _ (afterTimes_zero s).symm
  | succ n ih =>
    have hrest := ih (by omega) (by omega) (low.trans (lateFullness_antitone s n))
    rw [times_succ_last, act_bind_ok hrest]
    exact rcPixelTime_afterTimes pixels chunkPixels low

/-- Settles O52: sixteen times the fraction is a whole number of bits, which the carries remove. -/
theorem sixteenPixelTimesRemoveBpp : Obligations.SixteenPixelTimesRemoveBpp := by
  intro s elapsed pixels chunkPixels low
  have hbpp : s.cfg .bitsPerPixel < 2 ^ 10 := ppsBits_lt _ _ _
  have hfull := fullness_lt s
  have hfrac := s.buf.bpgFracAccum.isLt
  have htimes : lateTimes s 16 = 16 := by
    unfold lateTimes
    omega
  have hfullness : lateFullness s 16 = s.fullness - s.cfg .bitsPerPixel := by
    rw [lateFullness, lateFrac, htimes]
    omega
  have hfraction : lateFrac s 16 % 16 = s.buf.bpgFracAccum.toNat := by
    rw [lateFrac, htimes]
    omega
  refine ⟨_, times_rcPixelTime pixels chunkPixels (by omega), ?_, ?_, ?_, ofNat_toNat_of_lt pixels⟩
  · exact (word_toInt (by omega) (by omega)).trans hfullness
  · exact BitVec.eq_of_toNat_eq ((ofNat_toNat_of_lt (by omega)).trans hfraction)
  · simp [afterTimes, htimes]

end PixelTimes

end Sys2Proof.Machine

namespace Sys2Proof.Machine

/-! ### Steps 1 to 3: the fullness and its bounds -/

section Bounds

variable {s : State}

theorem rcBounds_overflow (above : (s.rcbBits : Int) < s.fullness) :
    rcBounds s = .error (raising .bufOverflow s.fullness) s :=
  act_bind_error (act_demand_neg (decide_eq_false (Int.not_le.2 above)))

theorem rcBounds_inside (low : 0 ≤ s.fullness) (high : s.fullness ≤ s.rcbBits) : rcBounds s = .ok () s := by
  rw [rcBounds, act_bind_ok (act_demand_pos (decide_eq_true high)), act_bind_ok (act_look _ s),
    if_neg (by simpa using low), act_pure]

/-- A negative fullness passes the upper bound, and is then an underflow or absorbed. -/
theorem rcBounds_negative (negative : s.fullness < 0) :
    rcBounds s =
      (do demand (fun s => s.cfgFlag .vbrEnable) .bufUnderflow (fun s => s.fullness); rcClampFullness : Act Unit) s := by
  have high : s.fullness ≤ s.rcbBits := negative.le.trans (Int.natCast_nonneg _)
  rw [rcBounds, act_bind_ok (act_demand_pos (decide_eq_true high)), act_bind_ok (act_look _ s),
    if_pos (decide_eq_true negative)]

theorem rcBounds_underflow (negative : s.fullness < 0) (cbr : s.cfg .vbrEnable = 0) :
    rcBounds s = .error (raising .bufUnderflow s.fullness) s := by
  rw [rcBounds_negative negative]
  exact act_bind_error (act_demand_neg (by simp [State.cfgFlag, cbr]))

/-- VBR counts the bits below 0 and holds the fullness at 0 (43_rate_control.md R307). -/
theorem rcBounds_absorbed (negative : s.fullness < 0) (vbr : s.cfg .vbrEnable = 1)
    (room : s.buf.clampedBits.toNat - s.fullness < 2 ^ 32) :
    rcBounds s =
      .ok ()
        { s with
          buf :=
            { s.buf with
              clampedBits := BitVec.ofInt 32 (s.buf.clampedBits.toNat - s.fullness)
              bufferFullness := 0 } } := by
  rw [rcBounds_negative negative, act_bind_ok (act_demand_pos ((cfgFlag_eq s _).2 vbr)), rcClampFullness,
    act_bind_ok (act_look _ s), act_bind_ok (fitU_fits (by omega) room s)]
  rfl

/-- Settles O51: the demands of step 3 fail on an overflow and on an underflow in CBR, and VBR absorbs what is below 0. -/
theorem bufferBoundsRule : Obligations.BufferBoundsRule := fun s =>
  ⟨rcBounds_overflow, rcBounds_inside, rcBounds_underflow, fun negative vbr room =>
    rcBounds_absorbed negative vbr (by have := le_fullness s; omega)⟩

/-- The state after step 1 of an update (43_rate_control.md R305). -/
def afterAdd (s : State) : State :=
  { s with
    buf :=
      { s.buf with
        bufferFullness := BitVec.ofInt 32 (s.fullness + s.size.codedGroupSize.toNat)
        numBitsChunk := BitVec.ofInt 32 (updChunkBits s) } }

/-- A field of the image is below two to its width (30_encoding.md R140). -/
theorem cfg_lt (s : State) (f : PpsField) : s.cfg f < 2 ^ f.width := ppsBits_lt _ _ _

theorem rcbBits_lt (s : State) : s.rcbBits < 2 ^ 16 := cfg_lt s .rcModelSize

theorem UpdateStart.added (h : UpdateStart s) :
    0 ≤ s.fullness + s.size.codedGroupSize.toNat ∧ s.fullness + s.size.codedGroupSize.toNat < 2 ^ 17 := by
  obtain ⟨low, high⟩ := h.fullness
  have hrcb := rcbBits_lt s
  have hcoded := s.size.codedGroupSize.isLt
  omega

theorem UpdateStart.chunkBits (h : UpdateStart s) : -2 ^ 30 ≤ updChunkBits s ∧ updChunkBits s < 2 ^ 30 + 2 ^ 16 := by
  obtain ⟨low, high⟩ := h.chunk
  have hcoded := s.size.codedGroupSize.isLt
  unfold updChunkBits
  omega

theorem rcAdd_eq (h : UpdateStart s) : rcAdd s = .ok () (afterAdd s) := by
  obtain ⟨low, high⟩ := h.added
  obtain ⟨chunkLow, chunkHigh⟩ := h.chunkBits
  rw [rcAdd, act_bind_ok (act_look _ s), act_bind_ok (fitS_fits (by omega) (by omega) s), act_bind_ok (act_update _ s),
    act_bind_ok (act_look _ _)]
  exact act_bind_ok (fitS_fits (x := updChunkBits s) (by omega) (by omega) _)

theorem updPixels_le (s : State) : updPixels s ≤ 3 := min_le_left _ _

/-- A group removes few bits, so its fullness stays near the one before (43_rate_control.md R306). -/
theorem UpdateStart.removed (h : UpdateStart s) : -200 ≤ updFullness s ∧ updFullness s < 2 ^ 17 := by
  obtain ⟨low, high⟩ := h.added
  have hbpp : s.cfg .bitsPerPixel < 2 ^ 10 := cfg_lt s .bitsPerPixel
  have hfrac := s.buf.bpgFracAccum.isLt
  have htimes : updTimes s ≤ 3 := (lateTimes_le s _).trans (updPixels_le s)
  have hwhole : updTimes s * (s.cfg .bitsPerPixel / 16) ≤ 3 * 63 := Nat.mul_le_mul htimes (by omega)
  have hpart : updTimes s * (s.cfg .bitsPerPixel % 16) ≤ 3 * 15 := Nat.mul_le_mul htimes (by omega)
  unfold updFullness updFrac
  omega

theorem rcRemove_eq (h : UpdateStart s) : rcRemove (afterAdd s) = .ok () (afterRemoval s) := by
  obtain ⟨low, high⟩ := h.added
  obtain ⟨low', high'⟩ := h.removed
  have hpixels := updPixels_le s
  have hp := h.pixels
  have hc := h.chunkPixels
  have hadded : (afterAdd s).fullness = s.fullness + s.size.codedGroupSize.toNat := word_toInt (by omega) (by omega)
  have hfullness : lateFullness (afterAdd s) (updPixels s) = updFullness s := by
    rw [lateFullness, hadded]
    rfl
  have htimes := times_rcPixelTime (s := afterAdd s) (n := updPixels s) ((Nat.add_le_add_left hpixels _).trans_lt hp)
    ((Nat.add_le_add_left hpixels _).trans_lt hc) (by omega)
  refine (act_bind_ok (act_look codedPixels (afterAdd s))).trans (htimes.trans (congrArg _ ?_))
  rw [afterTimes, hfullness]
  rfl

theorem afterRemoval_fullness (h : UpdateStart s) : (afterRemoval s).fullness = updFullness s := by
  obtain ⟨low, high⟩ := h.removed
  exact word_toInt (by omega) (by omega)

/-- The bounds pass a fullness inside the buffer, and in VBR one below it (43_rate_control.md R307). -/
theorem rcBounds_eq (h : UpdateStart s) (fits : updFullness s ≤ s.rcbBits) (held : 0 ≤ updFullness s ∨ updVbr s) :
    rcBounds (afterRemoval s) = .ok () (afterBounds s) := by
  have hnow := afterRemoval_fullness h
  rcases Int.lt_or_le (updFullness s) 0 with negative | low
  · have hclamped := h.clamped
    obtain ⟨low, -⟩ := h.removed
    have hheld : updHeld s = 0 := max_eq_right negative.le
    have hroom : (s.buf.clampedBits.toNat : Int) - updFullness s < 2 ^ 32 := by omega
    rw [rcBounds_absorbed (hnow.trans_lt negative) (held.resolve_left (Int.not_le.2 negative)) (by rwa [hnow]), hnow,
      afterBounds, hheld, zero_sub, ← sub_eq_add_neg]
    rfl
  · have hheld : updHeld s = updFullness s := max_eq_left low
    have hclamped : BitVec.ofInt 32 (s.buf.clampedBits.toNat : Int) = s.buf.clampedBits := by
      rw [BitVec.ofInt_natCast, BitVec.ofNat_toNat, BitVec.setWidth_eq]
    rw [rcBounds_inside (hnow ▸ low) (hnow ▸ fits), afterBounds, hheld, sub_self, add_zero, hclamped]
    rfl

end Bounds

end Sys2Proof.Machine

namespace Sys2Proof.Machine

/-! ### Step 4: the chunk -/

section Chunk

variable {s : State}

/-- The bytes of a chunk, rounded up (43_rate_control.md R309). -/
theorem chunkBytes_eq (s : State) : shr (s.buf.numBitsChunk.toInt + 7) 3 = (s.buf.numBitsChunk.toInt + 7) / 8 := rfl

theorem rcChunkVbr_overflow (above : 65535 * 8 < s.buf.numBitsChunk.toInt) :
    rcChunkVbr s = .error (raising .bufOverflow ((s.buf.numBitsChunk.toInt + 7) / 8)) s := by
  have hbytes : ¬ shr (s.buf.numBitsChunk.toInt + 7) 3 ≤ 65535 := by
    rw [chunkBytes_eq]
    omega
  rw [rcChunkVbr, act_bind_ok (act_look _ s)]
  exact act_bind_error (act_demand_neg (decide_eq_false hbytes))

/-- A VBR chunk that fits sends its bytes and counts the padding as absorbed (43_rate_control.md R309). -/
theorem rcChunkVbr_eq {bits clamped : Int} (hbits : s.buf.numBitsChunk.toInt = bits)
    (hclamped : s.buf.clampedBits.toNat + (8 * ((bits + 7) / 8) - bits) = clamped) (high : bits ≤ 524280)
    (room : clamped < 2 ^ 32) :
    rcChunkVbr s =
      .ok ()
        { s with
          io := { s.io with chunkOut := s.io.chunkOut ++ [BitVec.ofInt 16 ((bits + 7) / 8)] }
          buf := { s.buf with clampedBits := BitVec.ofInt 32 clamped, numBitsChunk := 0 } } := by
  subst hbits hclamped
  have hpadding : 0 ≤ s.buf.clampedBits.toNat + (8 * ((s.buf.numBitsChunk.toInt + 7) / 8) - s.buf.numBitsChunk.toInt) := by
    omega
  have hbytes : shr (s.buf.numBitsChunk.toInt + 7) 3 ≤ 65535 := by
    rw [chunkBytes_eq]
    omega
  rw [rcChunkVbr, act_bind_ok (act_look _ s), act_bind_ok (act_demand_pos (decide_eq_true hbytes)),
    act_bind_ok (act_update _ s), act_bind_ok (act_look _ _), chunkBytes_eq]
  exact act_bind_ok (fitU_fits hpadding room _)

theorem rcChunkCbr_eq {bits : Int} (hbits : s.buf.numBitsChunk.toInt - 8 * s.cfg .chunkSize = bits)
    (low : -2 ^ 31 ≤ bits) (high : bits < 2 ^ 31) :
    rcChunkCbr s = .ok () (s.withBuf { s.buf with numBitsChunk := BitVec.ofInt 32 bits }) := by
  subst hbits
  rw [rcChunkCbr, act_bind_ok (act_look _ s), act_bind_ok (fitS_fits low high s), act_update]

theorem closeChunk_eq (room : s.buf.chunkIndex.toNat + 1 < 2 ^ 32) :
    closeChunk s = .ok () (s.withBuf { s.buf with chunkIndex := s.buf.chunkIndex + 1, chunkPixelCount := 0 }) := by
  have hnext : BitVec.ofInt 32 ((s.buf.chunkIndex.toNat : Int) + 1) = s.buf.chunkIndex + 1 :=
    BitVec.eq_of_toNat_eq (by rw [BitVec.toNat_add, BitVec.toNat_ofInt]; simp; omega)
  rw [closeChunk, act_bind_ok (act_look _ s), act_bind_ok (fitU_fits (by omega) (by omega) s)]
  exact congrArg (fun k => EStateM.Result.ok () (s.withBuf { s.buf with chunkIndex := k, chunkPixelCount := 0 })) hnext

/-- At the last group of a line the chunk is closed, in its mode (43_rate_control.md R309). -/
theorem rcChunk_last (last : s.width ≤ codedGroupStart s + 3) :
    rcChunk s = ((if s.cfg .vbrEnable = 1 then rcChunkVbr else rcChunkCbr) >>= fun _ => closeChunk) s := by
  rw [rcChunk, act_bind_ok (act_look _ s), if_pos (decide_eq_true last), act_bind_ok (act_look _ s)]
  simp only [cfgFlag_eq]
  split <;> rfl

theorem rcChunk_inside (inside : ¬ s.width ≤ codedGroupStart s + 3) : rcChunk s = .ok () s := by
  rw [rcChunk, act_bind_ok (act_look _ s), if_neg (by simpa using inside), act_pure]

/-- The state after step 4 of an update (43_rate_control.md R309). -/
def afterChunk (s : State) : State :=
  { s with pos := (afterUpdate s).pos, buf := (afterUpdate s).buf, io := (afterUpdate s).io }

theorem codedGroupStart_add (h : UpdateStart s) : codedGroupStart (afterBounds s) + 3 = s.hPos :=
  Nat.sub_add_cancel h.position

theorem afterBounds_chunkBits (h : UpdateStart s) : (afterBounds s).buf.numBitsChunk.toInt = updChunkBits s := by
  obtain ⟨low, high⟩ := h.chunkBits
  exact word_toInt (by omega) (by omega)

theorem afterBounds_clamped (h : UpdateStart s) :
    ((afterBounds s).buf.clampedBits.toNat : Int) = s.buf.clampedBits.toNat + (updHeld s - updFullness s) := by
  obtain ⟨low, -⟩ := h.removed
  have := h.clamped
  refine word_toNat ?_ ?_ <;>
  · unfold updHeld
    omega

theorem rcChunk_eq (h : UpdateBounded s) : rcChunk (afterBounds s) = .ok () (afterChunk s) := by
  have hlast : (afterBounds s).width ≤ codedGroupStart (afterBounds s) + 3 ↔ updLast s := by
    rw [codedGroupStart_add h.toUpdateStart]
    rfl
  have hbits := afterBounds_chunkBits h.toUpdateStart
  have hclamped := afterBounds_clamped h.toUpdateStart
  have hroom := h.clamped
  obtain ⟨low, -⟩ := h.removed
  obtain ⟨chunkLow, chunkHigh⟩ := h.chunkBits
  by_cases last : updLast s
  · rw [rcChunk_last (hlast.2 last)]
    by_cases vbr : updVbr s
    · obtain ⟨-, bytes⟩ := h.bytes last vbr
      rw [if_pos (show (afterBounds s).cfg .vbrEnable = 1 from vbr)]
      have hpadded : ((afterBounds s).buf.clampedBits.toNat : Int) + (8 * ((updChunkBits s + 7) / 8) - updChunkBits s) =
          s.buf.clampedBits.toNat + (updHeld s - updFullness s) + (8 * updChunkBytes s - updChunkBits s) := by
        rw [hclamped, updChunkBytes]
      have hfits : s.buf.clampedBits.toNat + (updHeld s - updFullness s) + (8 * updChunkBytes s - updChunkBits s) <
          2 ^ 32 := by
        unfold updHeld updChunkBytes
        omega
      rw [act_bind_ok (rcChunkVbr_eq hbits hpadded bytes hfits)]
      refine (closeChunk_eq ?_).trans (congrArg _ ?_)
      · exact h.chunks
      · simp only [afterChunk, afterUpdate, if_pos last, if_pos vbr, if_pos (And.intro last vbr)]
        rfl
    · have hsize : s.cfg .chunkSize < 2 ^ 16 := cfg_lt s .chunkSize
      have hbudget : (afterBounds s).buf.numBitsChunk.toInt - 8 * (afterBounds s).cfg .chunkSize =
          updChunkBits s - 8 * s.cfg .chunkSize := by
        rw [hbits]
        rfl
      rw [if_neg (show ¬ (afterBounds s).cfg .vbrEnable = 1 from vbr),
        act_bind_ok (rcChunkCbr_eq hbudget (by omega) (by omega))]
      refine (closeChunk_eq ?_).trans (congrArg _ ?_)
      · exact h.chunks
      · simp only [afterChunk, afterUpdate, if_pos last, if_neg vbr, if_neg fun both : updLast s ∧ updVbr s => vbr both.2,
          add_zero]
        rfl
  · rw [rcChunk_inside (mt hlast.1 last)]
    simp only [afterChunk, afterUpdate, if_neg last, if_neg fun both : updLast s ∧ updVbr s => last both.1, add_zero]
    rfl

end Chunk

end Sys2Proof.Machine

namespace Sys2Proof.Machine

/-! ### Steps 5 and 6: the model -/

section Model

variable {s : State}

/-- The transformed fullness is registered and checked (43_rate_control.md R311, R312). -/
theorem rcModel_eq {m : Int}
    (hm : (s.rc.rcXformScale.toNat * (s.fullness + s.rc.rcXformOffsetFx.toInt / 2048)) / 8 = m) (low : -2 ^ 31 ≤ m)
    (high : m < 2 ^ 31) :
    rcModel s =
      if m < 0 then .ok () { s with rc := { s.rc with rcModelFullness := BitVec.ofInt 32 m } }
      else
        .error (raising .rcModelOverflow m) { s with rc := { s.rc with rcModelFullness := BitVec.ofInt 32 m } } := by
  have hvalue : shr (s.rc.rcXformScale.toNat * (s.fullness + offsetInt s)) rcScaleFracBits = m := hm
  have hheld : (BitVec.ofInt 32 m).toInt = m := word_toInt low high
  rw [rcModel, act_bind_ok (act_look _ s), hvalue, act_bind_ok (fitS_fits low high s), act_bind_ok (act_update _ s),
    act_demand]
  simp only [State.withRc_rc, hheld, decide_eq_true_eq]
  rfl

/-- The state after step 5 of an update (43_rate_control.md R310). -/
def afterTransform (s : State) : State :=
  { afterChunk s with
    rc :=
      { s.rc with
        rcXformScale := BitVec.ofNat 6 (updScale s).1
        rcXformOffsetFx := BitVec.ofInt 32 (updOffset s)
        scaleDecCount := BitVec.ofNat 16 (updScale s).2.1
        scaleIncCount := BitVec.ofNat 16 (updScale s).2.2
        scaleIncrementStart := updCrossed s } }

/-- An update moves the offset by little (43_rate_control.md R310). -/
theorem UpdateStart.offsetMoved (h : UpdateStart s) : -2 ^ 31 ≤ updOffset s - 2 ^ 29 ∧ updOffset s + 2 ^ 29 < 2 ^ 31 := by
  obtain ⟨low, high⟩ := h.offset
  have hbpp : s.cfg .bitsPerPixel < 2 ^ 10 := cfg_lt s .bitsPerPixel
  have hslice : s.cfg .sliceBpgOffset < 2 ^ 16 := cfg_lt s .sliceBpgOffset
  have hnfl : s.cfg .nflBpgOffset < 2 ^ 16 := cfg_lt s .nflBpgOffset
  have hgroup : updPixels s * s.cfg .bitsPerPixel ≤ 3 * 1023 := Nat.mul_le_mul (updPixels_le s) (by omega)
  unfold updOffset
  split_ifs <;> omega

theorem afterChunk_pixelCount (h : UpdateStart s) :
    (afterChunk s).pos.pixelCount.toNat = s.pos.pixelCount.toNat + updPixels s := by
  have := updPixels_le s
  have := h.pixels
  exact ofNat_toNat_of_lt (by omega)

theorem rcNextOffset_afterChunk (h : UpdateStart s) : rcNextOffset (afterChunk s) = updOffset s := by
  rw [rcNextOffset, afterChunk_pixelCount h]
  rfl

/-- The scale and its counters as their registers hold them (43_rate_control.md R310). -/
theorem rcNextScale_eq {u : State} {offset : Word} (mem : u.mem = s.mem)
    (hrc : u.rc = { s.rc with rcXformOffsetFx := offset, scaleIncrementStart := updCrossed s }) :
    rcNextScale u =
      { u.rc with
        rcXformScale := BitVec.ofNat 6 (updScale s).1
        scaleDecCount := BitVec.ofNat 16 (updScale s).2.1
        scaleIncCount := BitVec.ofNat 16 (updScale s).2.2 } := by
  rw [rcNextScale, hrc, cfg_of_mem mem, cfg_of_mem mem]
  dsimp only
  cases hcrossed : updCrossed s with
  | false =>
    by_cases hidle : s.cfg .scaleDecrementInterval = 0 ∨ s.rc.rcXformScale.toNat ≤ 8
    · have hstill : ¬ (s.cfg .scaleDecrementInterval ≠ 0 ∧ 2 ^ rcScaleFracBits < s.rc.rcXformScale.toNat) :=
        fun hmove => hidle.elim hmove.1 (Nat.not_le.2 hmove.2)
      rw [if_pos rfl, if_neg hstill]
      simp [updScale, hcrossed, hidle]
    · have hmove : s.cfg .scaleDecrementInterval ≠ 0 ∧ 2 ^ rcScaleFracBits < s.rc.rcXformScale.toNat :=
        ⟨fun h0 => hidle (.inl h0), Nat.not_le.1 fun hle => hidle (.inr hle)⟩
      have hdown : BitVec.ofNat 6 (s.rc.rcXformScale.toNat - 1) = s.rc.rcXformScale - 1 := by bv_omega
      rw [if_pos rfl, if_pos hmove]
      by_cases hend : s.cfg .scaleDecrementInterval ≤ s.rc.scaleDecCount.toNat + 1 <;>
        simp [updScale, hcrossed, hidle, intervalTick, hend, hdown]
  | true =>
    by_cases hidle : s.cfg .scaleIncrementInterval = 0
    · simp [updScale, hcrossed, hidle]
    · by_cases hend : s.cfg .scaleIncrementInterval ≤ s.rc.scaleIncCount.toNat + 1 <;>
        simp [updScale, hcrossed, hidle, intervalTick, hend]

/-- The state after the offset of step 5 (43_rate_control.md R310). -/
def afterOffset (s : State) : State :=
  (afterChunk s).withRc { s.rc with rcXformOffsetFx := BitVec.ofInt 32 (updOffset s) }

theorem afterOffset_offset (h : UpdateStart s) : (afterOffset s).rc.rcXformOffsetFx.toInt = updOffset s := by
  obtain ⟨low, high⟩ := h.offsetMoved
  exact word_toInt (by omega) (by omega)

theorem rcZeroCrossed_afterOffset (h : UpdateStart s) : rcZeroCrossed (afterOffset s) = updCrossed s := by
  have hoffset : offsetInt (afterOffset s) = updOffset s / 2048 := by
    rw [offsetInt, afterOffset_offset h]
    rfl
  rw [rcZeroCrossed, hoffset]
  rfl

theorem rcTransform_eq (h : UpdateStart s) : rcTransform (afterChunk s) = .ok () (afterTransform s) := by
  obtain ⟨low, high⟩ := h.offsetMoved
  have hscale := rcNextScale_eq (s := s)
    (u := (afterOffset s).withRc { (afterOffset s).rc with scaleIncrementStart := updCrossed s }) rfl rfl
  have hoffset : (afterChunk s).withRc { (afterChunk s).rc with rcXformOffsetFx := BitVec.ofInt 32 (updOffset s) } =
      afterOffset s := rfl
  rw [rcTransform, act_bind_ok (act_look _ _), rcNextOffset_afterChunk h,
    act_bind_ok (fitS_fits (by omega) (by omega) _), act_bind_ok (act_update _ _), hoffset, act_bind_ok (act_update _ _),
    act_update, rcZeroCrossed_afterOffset h, hscale]
  rfl

/-! ### The transformed fullness -/

theorem updScale_lt (s : State) : (updScale s).1 < 64 := by
  have hscale := s.rc.rcXformScale.isLt
  unfold updScale
  dsimp only
  split_ifs <;> dsimp only <;> omega

theorem UpdateBounded.heldInside (h : UpdateBounded s) : 0 ≤ updHeld s ∧ updHeld s < 2 ^ 16 := by
  have hfits := h.fits
  have hsize : s.cfg .rcModelSize < 2 ^ 16 := cfg_lt s .rcModelSize
  unfold updHeld
  omega

/-- The transformed fullness is far inside its register (43_rate_control.md R311). -/
theorem UpdateBounded.modelFits (h : UpdateBounded s) : -2 ^ 31 ≤ updModel s ∧ updModel s < 2 ^ 31 := by
  obtain ⟨heldLow, heldHigh⟩ := h.heldInside
  obtain ⟨offsetLow, offsetHigh⟩ := h.offsetMoved
  have hscale := updScale_lt s
  have hsum : |updHeld s + updOffset s / 2048| ≤ 2 ^ 21 := abs_le.2 (by omega)
  have hproduct : |((updScale s).1 : Int) * (updHeld s + updOffset s / 2048)| ≤ 64 * 2 ^ 21 := by
    rw [abs_mul, Nat.abs_cast]
    exact mul_le_mul (by omega) hsum (abs_nonneg _) (by decide)
  obtain ⟨low, high⟩ := abs_le.1 hproduct
  unfold updModel
  omega

/-- Step 6 leaves the transformed fullness registered, and raises unless it is negative (43_rate_control.md R312). -/
theorem rcModel_afterTransform (h : UpdateBounded s) :
    rcModel (afterTransform s) =
      if updModel s < 0 then .ok () (afterModel s)
      else .error (raising .rcModelOverflow (updModel s)) (afterModel s) := by
  obtain ⟨heldLow, heldHigh⟩ := h.heldInside
  obtain ⟨offsetLow, offsetHigh⟩ := h.offsetMoved
  obtain ⟨low, high⟩ := h.modelFits
  have hscale : (afterTransform s).rc.rcXformScale.toNat = (updScale s).1 := ofNat_toNat_of_lt (updScale_lt s)
  have hheld : (afterTransform s).fullness = updHeld s := word_toInt (by omega) (by omega)
  have hoffset : (afterTransform s).rc.rcXformOffsetFx.toInt = updOffset s := word_toInt (by omega) (by omega)
  exact rcModel_eq (s := afterTransform s) (by rw [hscale, hheld, hoffset, updModel]) low high

end Model

end Sys2Proof.Machine

namespace Sys2Proof.Machine

/-! ### Steps 6c and 7: the range and the target -/

section Commit

variable {s : State}

/-- The range found from range j down is the highest whose lower threshold the model fullness exceeds (43_rate_control.md
R313). -/
theorem rangeBelow_eq_find (s : State) (model : Int) (j : Nat) :
    rangeBelow s model j =
      ((List.range (j + 1)).reverse.find? (fun i =>
        decide (i = 0 ∨ (s.cfg (.rcBufThresh (i - 1)) * 64 : Int) - s.cfg .rcModelSize < model))).getD 0 := by
  induction j with
  | zero => rfl
  | succ j ih =>
    have hthresh : (s.threshBits j : Int) = s.cfg (.rcBufThresh j) * 64 := Int.natCast_mul _ _
    rw [List.range_succ, List.reverse_append, List.reverse_singleton, List.singleton_append, List.find?_cons, rangeBelow,
      hthresh, ih]
    by_cases hexceeds : (s.cfg (.rcBufThresh j) * 64 : Int) - s.cfg .rcModelSize < model <;> simp [hexceeds]

theorem updRange_eq (s : State) : rangeBelow s (updModel s) 14 = updRange s := rangeBelow_eq_find s _ 14

theorem updRange_le (s : State) : updRange s ≤ 14 := updRange_eq s ▸ rangeBelow_le s _ 14

/-- The state after step 7 of an update (43_rate_control.md R313, R315). -/
def afterTarget (s : State) : State := { afterModel s with rc := (afterUpdate s).rc }

theorem flatTgtOfs_eq (f : Flatness) : flatTgtOfs f = 0 := by cases f <;> rfl

/-- The offset of a range, sign-extended from its 6 bits (10_state.md R36). -/
theorem bpgOfs_eq (s : State) (j : Nat) :
    s.bpgOfs j =
      if s.cfg (.rangeBpgOffset j) < 32 then (s.cfg (.rangeBpgOffset j) : Int)
      else (s.cfg (.rangeBpgOffset j) : Int) - 64 := rfl

/-- The state with its range selected (43_rate_control.md R313). -/
def afterRange (s : State) : State :=
  { afterModel s with rc := { (afterModel s).rc with rcRange := BitVec.ofNat 4 (updRange s) } }

theorem rcSelectRange_eq (h : UpdateBounded s) : rcSelectRange (afterModel s) = .ok () (afterRange s) := by
  obtain ⟨low, high⟩ := h.modelFits
  have hmodel : (afterModel s).rc.rcModelFullness.toInt = updModel s := word_toInt low high
  have hrange : rangeBelow (afterModel s) (updModel s) 14 = updRange s := updRange_eq s
  rw [rcSelectRange, act_update, hmodel, hrange]
  rfl

theorem rangeReg_toNat (s : State) : (BitVec.ofNat 4 (updRange s)).toNat = updRange s := by
  have := updRange_le s
  exact ofNat_toNat_of_lt (by omega)

theorem rcTarget_eq (s : State) : rcTarget (afterRange s) = .ok () (afterTarget s) := by
  have hrange : (afterRange s).rc.rcRange.toNat = updRange s := rangeReg_toNat s
  rw [rcTarget, act_update, hrange, flatTgtOfs_eq, add_zero, bpgOfs_eq]
  rfl

/-! ### Steps 8 to 10: the QP -/

theorem updTarget_fits (s : State) : -2 ^ 31 ≤ updTarget s ∧ updTarget s < 2 ^ 31 := by
  have hbpp : s.cfg .bitsPerPixel < 2 ^ 10 := cfg_lt s .bitsPerPixel
  have hfirst : s.cfg .firstLineBpgOfs < 2 ^ 5 := cfg_lt s .firstLineBpgOfs
  have hrange : s.cfg (.rangeBpgOffset (updRange s)) < 2 ^ 6 := cfg_lt s (.rangeBpgOffset (updRange s))
  unfold updTarget
  split_ifs <;> omega

theorem afterTarget_target (s : State) : (afterTarget s).rc.rcTgtBitsGroup.toInt = updTarget s := by
  obtain ⟨low, high⟩ := updTarget_fits s
  exact word_toInt low high

/-- The greatest step of the QP in closed form (43_rate_control.md R320). -/
theorem rcIncrement_afterTarget (s : State) :
    rcIncrement (afterTarget s) =
      min (max 1 ((s.size.codedGroupSize.toNat - updTarget s) / 2))
        (if s.qp.masterQp = s.qp.prevQp ∧
            s.size.rcSizeGroup.toNat * 2 < s.size.rcSizeGroupPrev.toNat * s.cfg .rcEdgeFactor then
          (s.cfg .rcQuantIncrLimit0 : Int)
        else s.cfg .rcQuantIncrLimit1) := by
  have hqp : s.masterQp = s.qp.prevQp.toNat ↔ s.qp.masterQp = s.qp.prevQp := BitVec.toNat_inj
  rw [rcIncrement, afterTarget_target]
  by_cases hsame : s.qp.masterQp = s.qp.prevQp
  · by_cases hedge : s.size.rcSizeGroup.toNat * 2 < s.size.rcSizeGroupPrev.toNat * s.cfg .rcEdgeFactor
    · exact (if_pos (hqp.2 hsame)).trans ((if_pos hedge).trans (by rw [if_pos ⟨hsame, hedge⟩]; rfl))
    · exact (if_pos (hqp.2 hsame)).trans ((if_neg hedge).trans (by rw [if_neg fun both => hedge both.2]; rfl))
  · exact (if_neg (mt hqp.1 hsame)).trans (by rw [if_neg fun both => hsame both.1]; rfl)

theorem afterTarget_fullness (h : UpdateBounded s) : (afterTarget s).fullness = updHeld s := by
  obtain ⟨low, high⟩ := h.heldInside
  exact word_toInt (by omega) (by omega)

theorem rcQp_afterTarget (h : UpdateBounded s) : rcQp (afterTarget s) = updQp s := by
  have hrange : (afterTarget s).rc.rcRange.toNat = updRange s := rangeReg_toNat s
  have hmpp : (s.size.mppUsed.a0 && s.size.mppUsed.a1 && s.size.mppUsed.a2) = true ↔
      s.size.mppUsed = ⟨true, true, true⟩ := by
    cases s.size.mppUsed
    simp [and_assoc]
  have hpredicted : (predGroupSize (afterTarget s) : Int) =
      3 + 3 * (s.size.predictedSize.a0.toNat + s.size.predictedSize.a1.toNat + s.size.predictedSize.a2.toNat) := by
    show ((1 + 3 * s.size.predictedSize.a0.toNat + (1 + 3 * s.size.predictedSize.a1.toNat)
      + (1 + 3 * s.size.predictedSize.a2.toNat) : Nat) : Int) = _
    omega
  rw [rcQp, updQp, rcIncrement_afterTarget, afterTarget_target, hrange, afterTarget_fullness h, hpredicted]
  exact if_congr hmpp rfl rfl

/-- The flatness registers are shifted, and apply to the next group (43_rate_control.md R325). -/
theorem updFlat_eq (s : State) :
    { flatShift s.flat with flatThisGroup := flatnessOf (flatShift s.flat) } = updFlat s := by
  unfold flatShift flatnessOf updFlat
  by_cases hfirst : s.flat.sgPos = 0
  · simp only [if_pos hfirst]
    rfl
  · simp only [if_neg hfirst]

/-- The state after step 9 of an update, but for the QP (43_rate_control.md R325). -/
def afterFlat (s : State) : State := { afterTarget s with flat := updFlat s }

theorem afterFlat_mem (s : State) : (afterFlat s).mem = s.mem := by
  simp only [afterFlat, afterTarget, afterModel]

theorem afterFlat_bpc (s : State) : (afterFlat s).bpc = s.bpc := cfg_of_mem (afterFlat_mem s) _

theorem flatOverride_afterFlat (legal : LegalConfig s) : flatOverride (afterFlat s) (updQp s) = updMasterQp s := by
  have hvery : (flatVeryQp s.bpc : Int) = 1 + 2 * ((s.bpc : Int) - 8) := by
    rcases legal.bitsPerComponent with h | h | h <;> rw [h] <;> rfl
  have hqp : (afterFlat s).masterQp = s.masterQp := by
    simp only [State.masterQp, afterFlat, afterTarget, afterModel]
  have hflat : (afterFlat s).flat = updFlat s := by rw [afterFlat]
  rw [flatOverride, updMasterQp, hflat, hqp, afterFlat_bpc, cfg_of_mem (afterFlat_mem s)]
  refine if_congr Iff.rfl ?_ rfl
  cases (updFlat s).flatThisGroup with
  | none | somewhat => rfl
  | very => exact hvery

theorem updMasterQp_range (h : UpdateBounded s) : 0 ≤ updMasterQp s ∧ updMasterQp s ≤ maxQp s.bpc := by
  have legal : LegalConfig (afterFlat s) := h.legal.of_mem (afterFlat_mem s)
  have hrange : (afterTarget s).rc.rcRange.toNat = updRange s := rangeReg_toNat s
  have hlegal : (s.cfg (.rangeMaxQp (updRange s)) : Int) ≤ maxQp s.bpc :=
    Int.ofNat_le.2 (h.legal.rangeMaxLegal _ (Nat.lt_succ_of_le (updRange_le s)))
  obtain ⟨low, high⟩ := rcQp_range (afterTarget s)
  rw [rcQp_afterTarget h, hrange] at high
  rw [rcQp_afterTarget h] at low
  rw [← afterFlat_bpc, ← flatOverride_afterFlat h.legal]
  exact flatOverride_range legal low (by rw [afterFlat_bpc]; exact high.trans hlegal)

/-- The state after step 9 of an update (43_rate_control.md R325, R326). -/
def afterCommit (s : State) : State :=
  { afterFlat s with
    qp := { prevQp := s.qp.masterQp, masterQp := BitVec.ofInt 5 (updMasterQp s) }
    size := { s.size with rcSizeGroupPrev := s.size.rcSizeGroup } }

theorem rcCommitQp_eq (h : UpdateBounded s) : rcCommitQp (afterTarget s) = .ok () (afterCommit s) := by
  have hflat : update (fun s => s.withFlat { s.flat with flatThisGroup := flatnessOf s.flat })
      ((afterTarget s).withFlat (flatShift s.flat)) = .ok () (afterFlat s) :=
    congrArg (fun f => EStateM.Result.ok () ((afterTarget s).withFlat f)) (updFlat_eq s)
  have hshift : update (fun s => s.withFlat (flatShift s.flat)) (afterTarget s) =
      .ok () ((afterTarget s).withFlat (flatShift s.flat)) := act_update _ _
  rw [rcCommitQp, act_bind_ok (act_look _ _), rcQp_afterTarget h, act_bind_ok hshift, act_bind_ok hflat,
    act_bind_ok (act_look _ _), flatOverride_afterFlat h.legal, act_bind_ok (act_update _ _), act_update]
  rfl

theorem vbrEnable_zero_iff (s : State) : s.cfg .vbrEnable = 0 ↔ ¬ s.cfg .vbrEnable = 1 := by
  have : s.cfg .vbrEnable < 2 ^ 1 := cfg_lt s .vbrEnable
  omega

theorem mppForced_afterCommit (h : UpdateBounded s) : mppForced (afterCommit s) = updForce s := by
  have hbuf : (afterCommit s).buf = (afterTarget s).buf := by simp only [afterCommit, afterFlat]
  have hmem : (afterCommit s).mem = s.mem := by rw [afterCommit, afterFlat_mem]
  have hheld : (afterCommit s).fullness = updHeld s := by rw [State.fullness, hbuf, ← State.fullness, afterTarget_fullness h]
  have hcfg := cfg_of_mem hmem
  have hmode : (!(afterCommit s).cfgFlag .vbrEnable) = decide (s.cfg .vbrEnable = 0) := by
    rw [State.cfgFlag, hcfg, decide_eq_decide.2 (vbrEnable_zero_iff s), decide_not]
    rfl
  have hstarted : (afterCommit s).buf.removalStarted = (s.buf.removalStarted || decide (0 < updTimes s)) := by
    simp only [afterCommit, afterFlat, afterTarget, afterModel, afterUpdate]
  rw [mppForced, hheld, hmode, hstarted, hcfg, updForce]

/-- The state after step 10 of an update (43_rate_control.md R327). -/
def afterForce (s : State) : State := { afterCommit s with mode := { s.mode with forceMpp := updForce s } }

theorem rcForce_eq (h : UpdateBounded s) : rcForce (afterCommit s) = .ok () (afterForce s) := by
  rw [rcForce, act_update, mppForced_afterCommit h]
  rfl

theorem rcFinish_eq (h : UpdateBounded s) : rcFinish (afterForce s) = .ok () (afterUpdate s) := by
  obtain ⟨low, high⟩ := updMasterQp_range h
  have hqp : ((BitVec.ofInt 5 (updMasterQp s)).toNat : Int) = updMasterQp s := qp_ofInt_toNat low high
  rw [rcFinish, act_bind_ok (act_update _ _), act_bind_ok (act_look _ _), act_writeRes]
  simp only [State.masterQp, State.setRes, State.withPort, State.withMode, afterForce, afterCommit, afterFlat, afterTarget,
    afterModel, hqp]
  rfl

end Commit

/-! ## `RC_UPDATE` -/

section RcUpdate

variable {s : State}

/-- The steps of an update after its bounds (43_rate_control.md R300). -/
def rcAfterBounds : Act Unit := do
  rcChunk
  rcTransform
  rcModel
  rcSelectRange
  rcTarget
  rcCommitQp
  rcForce
  rcFinish

/-- An update that starts gets to its bounds (43_rate_control.md R305 to R307). -/
theorem exec_rcUpdate_removal (h : UpdateStart s) :
    exec .rcUpdate s = complete (rcBounds >>= fun _ => rcAfterBounds) (afterRemoval s) := by
  have hstart : exec .rcUpdate s = _ := unlessFaulted_needsSlice h.runs (.inl h.active)
  rw [hstart, complete_demand_met h.pending, complete_bind_ok (rcAdd_eq h), complete_bind_ok (rcRemove_eq h)]
  rfl

theorem exec_rcUpdate_bounds (h : UpdateStart s) (fits : updFullness s ≤ s.rcbBits) (held : 0 ≤ updFullness s ∨ updVbr s) :
    exec .rcUpdate s = complete rcAfterBounds (afterBounds s) :=
  (exec_rcUpdate_removal h).trans (complete_bind_ok (rcBounds_eq h fits held))

/-- An update whose bounds and chunk pass gets to the check of the model (43_rate_control.md R309 to R312). -/
theorem exec_rcUpdate_transform (h : UpdateBounded s) :
    exec .rcUpdate s =
      complete (do rcModel; rcSelectRange; rcTarget; rcCommitQp; rcForce; rcFinish) (afterTransform s) := by
  rw [exec_rcUpdate_bounds h.toUpdateStart h.fits h.held, rcAfterBounds, complete_bind_ok (rcChunk_eq h),
    complete_bind_ok (rcTransform_eq h.toUpdateStart)]

/-- Settles O50: the steps of an update lead through their closed forms to the last one. -/
theorem rcUpdateCompletes : Obligations.RcUpdateCompletes := by
  intro s h
  have hb := h.toUpdateBounded
  have hmodel : rcModel (afterTransform s) = .ok () (afterModel s) :=
    (rcModel_afterTransform hb).trans (if_pos h.model)
  rw [exec_rcUpdate_transform hb, complete_bind_ok hmodel, complete_bind_ok (rcSelectRange_eq hb),
    complete_bind_ok (rcTarget_eq s), complete_bind_ok (rcCommitQp_eq hb),
    complete_bind_ok (rcForce_eq hb), complete_ok (rcFinish_eq hb)]

/-- Settles O53: an update raises at the first of its checks that fails, from the closed form of the steps before it. -/
theorem rcUpdateFaults : Obligations.RcUpdateFaults := by
  intro s
  dsimp only
  refine ⟨fun _ above => rcChunkVbr_overflow above, fun low high => ?_, fun h => ⟨fun above => ?_, fun negative cbr => ?_,
    fun fits last vbr above => ?_⟩, fun h overflow => ?_⟩
  · exact (rcModel_eq rfl (by omega) high).trans (if_neg (Int.not_lt.2 low))
  · have hnow := afterRemoval_fullness h
    rw [exec_rcUpdate_removal h, ← hnow]
    exact complete_bind_raise (rcBounds_overflow (above.trans_eq hnow.symm))
  · have hnow := afterRemoval_fullness h
    rw [exec_rcUpdate_removal h, ← hnow]
    exact complete_bind_raise (rcBounds_underflow (hnow.trans_lt negative) cbr)
  · have hbits := afterBounds_chunkBits h
    have hlast : (afterBounds s).width ≤ codedGroupStart (afterBounds s) + 3 := by
      rw [codedGroupStart_add h]
      exact last
    have hchunk : rcChunk (afterBounds s) = .error (raising .bufOverflow (updChunkBytes s)) (afterBounds s) := by
      rw [rcChunk_last hlast, if_pos (show (afterBounds s).cfg .vbrEnable = 1 from vbr), updChunkBytes, ← hbits]
      exact act_bind_error (rcChunkVbr_overflow (by rw [hbits]; exact above))
    rw [exec_rcUpdate_bounds h fits (.inr vbr)]
    exact complete_bind_raise hchunk
  · have hmodel : rcModel (afterTransform s) = _ := (rcModel_afterTransform h).trans (if_neg (Int.not_lt.2 overflow))
    rw [exec_rcUpdate_transform h, complete_error (act_bind_error hmodel), enterFault_raising]

end RcUpdate

end Sys2Proof.Machine

namespace Sys2Proof.Machine

/-! ## The command `PSIZE_ADJ` -/

theorem levelOf_lt_depth {s : State} (legal : LegalConfig s) (c : Cpnt) {qp : Nat} (h : qp ≤ maxQp s.bpc) :
    levelOf s c qp < s.depth c := by
  have hmax : s.bpc = 8 ∧ maxQp s.bpc = 15 ∨ s.bpc = 10 ∧ maxQp s.bpc = 19 ∨ s.bpc = 12 ∧ maxQp s.bpc = 23 := by
    rcases legal.bitsPerComponent with hb | hb | hb <;> simp [hb, maxQp]
  unfold levelOf State.depth
  by_cases hc : s.isChroma c = true
  · rw [if_pos ((isChroma_iff s c).1 hc), hc, Bool.toNat_true]
    split_ifs <;> omega
  · rw [if_neg (mt (isChroma_iff s c).2 hc)]
    omega

/-- The sizes of a unit in closed form, on every state with a legal configuration and legal QPs (44_entropy.md R361). -/
theorem unitPlan_of_legal {s : State} (legal : LegalConfig s) (master : s.masterQp ≤ maxQp s.bpc)
    (pred : s.size.prevPredQp.toNat ≤ maxQp s.bpc) (c : Cpnt) :
    unitPlan s c = .ok ⟨unitLevel s c, unitWidth s c, unitFloor s c⟩ := by
  rw [unitPlan, mapQpToLevel_eq legal c master, mapQpToLevel_eq legal c pred]
  rfl

/-- The level is below the depth, so the greatest adjusted size `M - 1` is not negative and the clamp is in order. -/
theorem unitFloor_cast {s : State} (legal : LegalConfig s) (master : s.masterQp ≤ maxQp s.bpc) (c : Cpnt) :
    (unitFloor s c : Int) =
      min (max ((s.size.predictedSize.get c).toNat + (levelOf s c s.size.prevPredQp.toNat : Int) - unitLevel s c) 0)
        ((s.depth c : Int) - unitLevel s c - 1) := by
  have hlevel : unitLevel s c < s.depth c := levelOf_lt_depth legal c master
  unfold unitFloor unitWidth
  omega

/-- Settles O41: the levels of legal QPs are their closed forms, and the clamp leaves no negative size. -/
theorem psizeAdjRule : Obligations.PsizeAdjRule := by
  intro s c hrun hslice legal master pred
  have hplan := unitPlan_of_legal legal master pred c
  have hstart : exec (.psizeAdj c) s = _ := unlessFaulted_needsSlice hrun hslice
  rw [hstart, complete_bind_ok (act_sense_ok hplan), complete_ok (act_writeRes _ s), unitFloor_cast legal master]
  rfl

end Sys2Proof.Machine

namespace Sys2Proof.Machine

/-! ## `ENC_GROUP` at a position that starts no group -/

/-- A legal image of 9 pixels by 2 lines: the fields that must not be 0, and rising thresholds. -/
def nineByTwo : Memory :=
  [(0, 0x11), (3, 0x88), (5, 0x80), (7, 2), (9, 9), (11, 2), (13, 9), (15, 9), (21, 8), (38, 0x20)] ++
    (List.range 13).map fun i => (45 + i, BitVec.ofNat 8 (i + 1))

/-- A line of samples from position 0 on. -/
def lineOf (l : List Sample) : Store Sample := l.zipIdx.map fun p => (p.2, p.1)

/-- The original line of every component. -/
def offGridLine : List Sample := [0, 0, 0, 0, 255, 0, 255, 0, 0]

/-- An encoder on line 1 whose `hPos` is 4, which `GroupReady` allows and no run reaches: `pickBestHistoryValue` takes the
window of the group start 3 (42_ich.md R267), where entry 27 names sample 3 of the line above. At position 4 entry 26 names
that sample. -/
def offGrid : State :=
  { State.reset with
    mem := nineByTwo
    st := { State.reset.st with cfgValid := true, sliceActive := true, isEncoder := true, stateValid := true }
    pos := { State.reset.pos with vPos := 1, hPos := 4 }
    flat := { State.reset.flat with sgPos := 1 }
    mode := { State.reset.mode with lineOpen := true }
    prev := Tri.fill (lineOf [0, 0, 0, 255, 0, 0, 0, 0, 0])
    cur := Tri.fill (lineOf [0, 0, 0, 0])
    orig := Tri.fill (lineOf offGridLine) }

theorem legal_offGrid : LegalConfig offGrid := by
  constructor <;> simp only [State.bpc, State.cfg, show offGrid.mem = nineByTwo from rfl] <;> decide +kernel

theorem offGrid_groupReady : GroupReady offGrid where
  runs := rfl
  active := rfl
  lineOpen := rfl
  noneLeft := rfl
  inLine := by decide +kernel
  legal := legal_offGrid
  masterQp := by decide +kernel
  predQp := by decide +kernel
  above _ := by
    have h : ∀ c ∈ Idx3.all, ∀ i < offGrid.width, (storeRead (offGrid.prev.get c) i).isSome = true := by decide +kernel
    exact fun c => h c (Idx3.mem_all c)
  left := by
    have h : ∀ c ∈ Idx3.all, ∀ i < offGrid.hPos, (storeRead (offGrid.cur.get c) i).isSome = true := by decide +kernel
    exact fun c => h c (Idx3.mem_all c)
  vector := by decide +kernel
  groups := by decide +kernel
  lineGroups := by decide +kernel
  bits := by decide +kernel

theorem offGrid_origIs : offGrid.origIs fun _ i => offGridLine.getD i 0 := by
  have h : ∀ c ∈ Idx3.all, ∀ i < offGrid.width, storeRead (offGrid.orig.get c) i = some (offGridLine.getD i 0) := by
    decide +kernel
  exact fun c => h c (Idx3.mem_all c)

/-- The group is coded as an ICH group, its first pixel with entry 27. -/
theorem offGrid_encGroup {t : State} (h : exec .encGroup offGrid = .next t) :
    t.mode.ichSelected = true ∧ t.mode.ichIdx.a0.toNat = 27 := by
  have hrun : (match exec .encGroup offGrid with
    | .next t => t.mode.ichSelected && t.mode.ichIdx.a0.toNat == 27
    | _ => false) = true := by decide +kernel
  rw [h] at hrun
  simpa using hrun

/-- Entry 27 misses the first original by 255 in every component, and entry 26 is equal to it. -/
theorem offGrid_entryErrors :
    entryError offGrid (fun _ i => offGridLine.getD i 0) .i0 26 <
      entryError offGrid (fun _ i => offGridLine.getD i 0) .i0 27 := by decide +kernel

/-- Refutes O45: off the grid of group starts the encoder picks the entries of another window than it codes, so the coded
entry is not one of least error. -/
theorem not_encGroupCompletes : ¬ Obligations.EncGroupCompletes := by
  intro h
  have hroom (ss : Cpnt) (r : Nat) (hr : offGrid.io.sinkRoom.get ss = some r) : 64 ≤ r := by
    cases ss <;> cases hr
  obtain ⟨t, hexec, -, -, -, -, -, -, -, hpicked, -⟩ := h offGrid _ offGrid_groupReady rfl offGrid_origIs hroom
  obtain ⟨hich, hidx⟩ := offGrid_encGroup hexec
  obtain ⟨-, -, hleast, -⟩ := (hpicked hich).2 .i0
  rw [Tri.get_i0, hidx] at hleast
  have hvalid : ichValidAt offGrid 26 = true := by decide +kernel
  exact absurd (hleast 26 (by decide) hvalid).1 (not_le.2 offGrid_entryErrors)

end Sys2Proof.Machine

namespace Sys2Proof.Machine

/-! ## The decoder's image of an encoder

`State.asDecoder` is the decoder of 44_entropy.md R382: it differs from the encoder in its direction, its ports, its
originals and its streams alone. A piece that reads none of these runs alike on both (`Blind`); a piece of the decoder that
reads what a piece of the encoder sends `Follows` it. -/

/-- A decoder with the registers and memories of an encoder, but for the ports, the originals and the streams. -/
def State.asDecoder (s : State) (port : Port) (orig : LineBuf) (io : BitIo) : State :=
  { s with st := { s.st with isEncoder := false }, port := port, orig := orig, io := io }

section Blind

variable {α β : Type}

/-- A piece that leaves the streams and runs on a decoder's image as it runs on the state itself. -/
def Blind (m : Act α) : Prop :=
  ∀ s a t, m s = .ok a t →
    t.io = s.io ∧ ∀ port orig io, m (s.asDecoder port orig io) = .ok a (t.asDecoder port orig io)

theorem blind_pure (a : α) : Blind (pure a : Act α) := fun s b t h => by
  cases h
  exact ⟨rfl, fun _ _ _ => rfl⟩

theorem blind_bind {m : Act α} {f : α → Act β} (hm : Blind m) (hf : ∀ a, Blind (f a)) : Blind (m >>= f) :=
  fun s b t h => by
    obtain ⟨a, u, hu, ht⟩ := act_bind_eq_ok.1 h
    obtain ⟨hio, himage⟩ := hm s a u hu
    obtain ⟨hio', himage'⟩ := hf a u b t ht
    exact ⟨hio'.trans hio, fun port orig io => (act_bind_ok (himage port orig io)).trans (himage' port orig io)⟩

theorem blind_look {f : State → α} (h : ∀ s port orig io, f (s.asDecoder port orig io) = f s) : Blind (look f) :=
  fun s b t hb => by
    cases hb
    exact ⟨rfl, fun port orig io => by rw [act_look, h]⟩

theorem blind_sense {f : State → Rd α} (h : ∀ s port orig io, f (s.asDecoder port orig io) = f s) : Blind (sense f) :=
  fun s b t hb => by
    cases hf : f s with
    | ok a =>
      rw [act_sense_ok hf] at hb
      cases hb
      exact ⟨rfl, fun port orig io => act_sense_ok ((h s port orig io).trans hf)⟩
    | error r =>
      rw [act_sense_error hf] at hb
      cases hb

theorem blind_update {f : State → State} (hio : ∀ s, (f s).io = s.io)
    (h : ∀ s port orig io, f (s.asDecoder port orig io) = (f s).asDecoder port orig io) : Blind (update f) :=
  fun s b t hb => by
    cases hb
    exact ⟨hio s, fun port orig io => congrArg _ (h s port orig io)⟩

theorem blind_demand {p : State → Bool} (h : ∀ s port orig io, p (s.asDecoder port orig io) = p s) (k : FaultKind)
    (info : State → Int) : Blind (demand p k info) := fun s b t hb => by
  cases hp : p s with
  | true =>
    rw [act_demand_pos hp] at hb
    cases hb
    exact ⟨rfl, fun port orig io => act_demand_pos ((h s port orig io).trans hp)⟩
  | false =>
    rw [act_demand_neg hp] at hb
    cases hb

theorem blind_fitU (w reg : Nat) (x : Int) : Blind (fitU w reg x) := fun s b t hb => by
  rw [act_fitU] at hb
  split at hb
  · rename_i hx
    cases hb
    exact ⟨rfl, fun port orig io => by rw [act_fitU, if_pos hx]⟩
  · cases hb

theorem blind_ite {p : Prop} [Decidable p] {m n : Act α} (hm : Blind m) (hn : Blind n) : Blind (if p then m else n) := by
  split
  · exact hm
  · exact hn

theorem blind_forAll {f : α → Act Unit} (h : ∀ a, Blind (f a)) (l : List α) : Blind (forAll f l) := by
  induction l with
  | nil => exact blind_pure ()
  | cons a l ih => exact blind_bind (h a) fun _ => ih

end Blind

/-! ### The pieces that both directions share -/

theorem writePixel_blind (c : Cpnt) (gs : Nat) (i : Pix) (q : Nat) (p e : Int) : Blind (writePixel c gs i q p e) :=
  blind_update (fun _ => rfl) fun _ _ _ _ => rfl

theorem decPixel_blind (c : Cpnt) (gs q : Nat) (i : Pix) (r0 r1 e : Int) : Blind (decPixel c gs q i r0 r1 e) :=
  blind_bind (blind_sense fun _ _ _ _ => rfl) fun p => writePixel_blind c gs i q p e

/-- The reconstruction of a unit (44_entropy.md R375 step 3b). -/
theorem decRecon_blind (c : Cpnt) (gs : Nat) (u : UnitCode) (e : Tri Int) : Blind (decRecon c gs u e) := by
  refine blind_ite (blind_bind (blind_sense fun _ _ _ _ => rfl) fun mid => blind_forAll (fun i => ?_) _) ?_
  · exact writePixel_blind c gs i _ mid _
  · exact blind_bind (decPixel_blind c gs _ _ _ _ _) fun _ => blind_bind (decPixel_blind c gs _ _ _ _ _) fun _ =>
      decPixel_blind c gs _ _ _ _ _

/-- The size bookkeeping (44_entropy.md R377). -/
theorem groupSizes_blind (bits : Nat) (g : GroupCode) : Blind (groupSizes bits g) := by
  refine blind_bind (blind_update (fun _ => rfl) fun _ _ _ _ => rfl) fun _ => ?_
  refine blind_bind (blind_demand (fun _ _ _ _ => rfl) _ _) fun _ => ?_
  refine blind_bind (blind_update (fun _ => rfl) fun _ _ _ _ => rfl) fun _ => ?_
  refine blind_bind (blind_look fun _ _ _ _ => rfl) fun n => blind_bind (blind_fitU 32 _ n) fun n' => ?_
  refine blind_bind (blind_update (fun _ => rfl) fun _ _ _ _ => rfl) fun _ => ?_
  exact blind_update (fun _ => rfl) fun _ _ _ _ => by cases g <;> rfl

theorem groupAdvance_blind (gs : Nat) : Blind (groupAdvance gs) := by
  refine blind_bind (blind_update (fun _ => rfl) fun _ _ _ _ => rfl) fun _ => ?_
  refine blind_bind (blind_look fun _ _ _ _ => rfl) fun n => blind_bind (blind_fitU 32 _ n) fun n' => ?_
  refine blind_bind (blind_update (fun _ => rfl) fun _ _ _ _ => rfl) fun _ => blind_bind (blind_fitU 16 _ _) fun h' => ?_
  refine blind_bind (blind_update (fun _ => rfl) fun _ _ _ _ => rfl) fun _ => ?_
  refine blind_bind (blind_look fun _ _ _ _ => rfl) fun k => blind_bind (blind_fitU 16 _ k) fun k' => ?_
  exact blind_bind (blind_update (fun _ => rfl) fun _ _ _ _ => rfl) fun _ =>
    blind_update (fun _ => rfl) fun _ _ _ _ => rfl

/-- The position and cache bookkeeping (44_entropy.md R378). -/
theorem groupBookkeeping_blind (gs : Nat) (g : GroupCode) : Blind (groupBookkeeping gs g) := by
  have hpixel (j : Nat) : Blind (ichUpdatePixel (gs + j)) :=
    blind_bind (blind_sense fun _ _ _ _ => rfl) fun _ => blind_update (fun _ => rfl) fun _ _ _ _ => rfl
  have hcache : Blind (ichUpdateGroup gs g.isIch) :=
    blind_bind (blind_look fun _ _ _ _ => rfl) fun n => blind_ite (blind_forAll hpixel _) (blind_pure ())
  refine blind_bind hcache fun _ => blind_bind (blind_sense fun _ _ _ _ => rfl) fun b => ?_
  exact blind_bind (blind_update (fun _ => rfl) fun _ _ _ _ => rfl) fun _ => groupAdvance_blind gs

/-- The end of a group: the bookkeeping is the same in both directions, and the result goes to the port (44_entropy.md R370,
R375). -/
theorem finishGroup_image {gs bits : Nat} {g : GroupCode} {s t : State} (h : finishGroup gs bits g s = .ok () t) :
    t.io = s.io ∧ ∀ port orig io, finishGroup gs bits g (s.asDecoder port orig io) =
      .ok () (t.asDecoder { port with res := t.port.res } orig io) := by
  have hbook : Blind (groupSizes bits g >>= fun _ => groupBookkeeping gs g) :=
    blind_bind (groupSizes_blind bits g) fun _ => groupBookkeeping_blind gs g
  have hsplit : finishGroup gs bits g = (groupSizes bits g >>= fun _ => groupBookkeeping gs g) >>= fun _ =>
      writeRes bits := by simp [finishGroup]
  rw [hsplit] at h ⊢
  obtain ⟨_, u, hu, ht⟩ := act_bind_eq_ok.1 h
  obtain ⟨hio, himage⟩ := hbook s () u hu
  cases ht
  exact ⟨hio, fun port orig io => act_bind_ok (himage port orig io)⟩

/-! ### Following the bits sent -/

/-- From s, `dec` follows `enc`: where `enc` answers, `dec` run on a decoder's image whose source starts with the bits that
`enc` sent gives the same answer and the image of the same state, with exactly these bits taken (44_entropy.md R382). -/
def Follows {α : Type} (s : State) (enc dec : Act α) : Prop :=
  ∀ a t, enc s = .ok a t → ∃ wire : Tri (List Bool),
    (∀ ss, t.io.sink.get ss = s.io.sink.get ss ++ wire.get ss) ∧
    ∀ port orig io (rest : Tri (List Bool)), (∀ ss, io.source.get ss = wire.get ss ++ rest.get ss) →
      dec (s.asDecoder port orig io) = .ok a (t.asDecoder port orig { io with source := rest })

/-- The bits of a second piece stand behind those of a first. -/
theorem Follows.bind {α β : Type} {s : State} {enc dec : Act α} {f g : α → Act β} (h : Follows s enc dec)
    (hf : ∀ a t, enc s = .ok a t → Follows t (f a) (g a)) : Follows s (enc >>= f) (dec >>= g) := fun b u hu => by
  obtain ⟨a, t, ht, hu⟩ := act_bind_eq_ok.1 hu
  obtain ⟨wire, hsink, hdec⟩ := h a t ht
  obtain ⟨wire', hsink', hdec'⟩ := hf a t ht b u hu
  refine ⟨⟨wire.a0 ++ wire'.a0, wire.a1 ++ wire'.a1, wire.a2 ++ wire'.a2⟩, fun ss => ?_, fun port orig io rest hsource => ?_⟩
  · rw [hsink', hsink]
    cases ss <;> simp
  · have hfirst := hdec port orig io ⟨wire'.a0 ++ rest.a0, wire'.a1 ++ rest.a1, wire'.a2 ++ rest.a2⟩ fun ss => by
      rw [hsource]
      cases ss <;> simp
    exact (act_bind_ok hfirst).trans (hdec' port orig _ rest fun ss => by cases ss <;> rfl)

end Sys2Proof.Machine

namespace Sys2Proof.Machine

/-! ## The writes of a unit -/

/-! ### Three samples of a component -/

/-- A component's store with the three samples of the group at gs. -/
def writeThree (m : Store Sample) (gs : Nat) (v : Tri Sample) : Store Sample :=
  storeWrite (storeWrite (storeWrite m gs v.a0) (gs + 1) v.a1) (gs + 2) v.a2

theorem storeRead_writeThree_pixel (m : Store Sample) (gs : Nat) (v : Tri Sample) (i : Pix) :
    storeRead (writeThree m gs v) (gs + i.toNat) = some (v.get i) := by
  cases i <;> simp [writeThree, storeRead_storeWrite]

theorem storeRead_writeThree_elsewhere (m : Store Sample) {gs j : Nat} (v : Tri Sample) (h : j < gs ∨ gs + 3 ≤ j) :
    storeRead (writeThree m gs v) j = storeRead m j := by
  rw [writeThree, storeRead_storeWrite_ne _ _ (by omega), storeRead_storeWrite_ne _ _ (by omega),
    storeRead_storeWrite_ne _ _ (by omega)]

theorem writeThree_wf {m : Store Sample} (h : storeWf m) (gs : Nat) (v : Tri Sample) : storeWf (writeThree m gs v) :=
  storeWrite_wf _ _ _ (storeWrite_wf _ _ _ (storeWrite_wf _ _ _ h))

/-- A position is a pixel of the group at gs, or outside the group. -/
theorem pixel_or_elsewhere (gs j : Nat) : (∃ i : Pix, j = gs + i.toNat) ∨ j < gs ∨ gs + 3 ≤ j := by
  by_cases h : j < gs ∨ gs + 3 ≤ j
  · exact .inr h
  · obtain h | h | h : j = gs ∨ j = gs + 1 ∨ j = gs + 2 := by omega
    · exact .inl ⟨.i0, h⟩
    · exact .inl ⟨.i1, h⟩
    · exact .inl ⟨.i2, h⟩

/-- The later samples of a group are the ones that stay. -/
theorem writeThree_writeThree {m : Store Sample} (h : storeWf m) (gs : Nat) (v w : Tri Sample) :
    writeThree (writeThree m gs v) gs w = writeThree m gs w := by
  refine store_ext (writeThree_wf (writeThree_wf h gs v) gs w) (writeThree_wf h gs w) fun j => ?_
  rcases pixel_or_elsewhere gs j with ⟨i, rfl⟩ | hj
  · rw [storeRead_writeThree_pixel, storeRead_writeThree_pixel]
  · simp only [storeRead_writeThree_elsewhere _ _ hj]

/-! ### The samples and the scratch registers of a component -/

/-- The state with the samples, the predictions and the residuals of one component of the group at gs (44_entropy.md R364,
R365, R375). -/
def State.written (s : State) (c : Cpnt) (gs : Nat) (v : Tri Sample) (p e : Tri Word) : State :=
  { s with
    cur := s.cur.set c (writeThree (s.cur.get c) gs v)
    scratch := ⟨s.scratch.qres.set c e, s.scratch.pred.set c p⟩ }

theorem written_wf {s : State} (h : ∀ c, storeWf (s.cur.get c)) (c : Cpnt) (gs : Nat) (v : Tri Sample) (p e : Tri Word)
    (c' : Cpnt) : storeWf ((s.written c gs v p e).cur.get c') := by
  simp only [State.written, Tri.get_set]
  split
  · exact writeThree_wf (h c) gs v
  · exact h c'

theorem written_written {s : State} {c : Cpnt} (h : storeWf (s.cur.get c)) (gs : Nat) (v v' : Tri Sample)
    (p p' e e' : Tri Word) : (s.written c gs v p e).written c gs v' p' e' = s.written c gs v' p' e' := by
  simp only [State.written, Tri.get_set_self, tri_set_set, writeThree_writeThree h]

theorem storeRead_written_elsewhere (s : State) (c : Cpnt) {gs : Nat} (v : Tri Sample) (p e : Tri Word) (c' : Cpnt) {j : Nat}
    (h : j < gs ∨ gs + 3 ≤ j) :
    storeRead ((s.written c gs v p e).cur.get c') j = storeRead (s.cur.get c') j := by
  simp only [State.written, Tri.get_set]
  split_ifs with hc
  · rw [hc, storeRead_writeThree_elsewhere _ _ h]
  · rfl

/-- A sample left of the group is read as before. -/
theorem curRead_written (s : State) (c : Cpnt) {gs : Nat} (v : Tri Sample) (p e : Tri Word) (c' : Cpnt) {j : Int}
    (h : j < gs) : curRead (s.written c gs v p e) c' j = curRead s c' j := by
  rcases Int.lt_or_le j 0 with hneg | hpos
  · simp only [curRead, if_pos hneg]
    rfl
  · have hcell := storeRead_written_elsewhere s c v p e c' (.inl (by omega : j.toNat < gs))
    rw [curRead_inside c' hpos, curRead_inside c' hpos, readCell, readCell, hcell]

theorem midpointOf_written (s : State) (c : Cpnt) (gs : Nat) (v : Tri Sample) (p e : Tri Word) (c' : Cpnt) (q : Nat) :
    midpointOf (s.written c gs v p e) c' gs q = midpointOf s c' gs q := by
  unfold midpointOf
  rw [curRead_written s c v p e c' (by omega)]
  rfl

/-- The samples of a unit: each its prediction and its residual, clamped (41_quantizer.md R240). -/
def unitSamples (s : State) (c : Cpnt) (q : Nat) (p e : Tri Int) : Tri Sample :=
  ⟨BitVec.ofInt 16 (reconSample s c p.a0 (dequantize e.a0 q)), BitVec.ofInt 16 (reconSample s c p.a1 (dequantize e.a1 q)),
    BitVec.ofInt 16 (reconSample s c p.a2 (dequantize e.a2 q))⟩

/-- The state with a unit reconstructed from its predictions and its residuals. -/
def State.unitWritten (s : State) (c : Cpnt) (gs q : Nat) (p e : Tri Int) : State :=
  s.written c gs (unitSamples s c q p e) (triMap (BitVec.ofInt 32) p) (triMap (BitVec.ofInt 32) e)

/-- The state that `writePixel` leaves. -/
def State.pixelWritten (s : State) (c : Cpnt) (gs : Nat) (i : Pix) (q : Nat) (p e : Int) : State :=
  (s.setCur c (gs + i.toNat) (reconSample s c p (dequantize e q))).setScratch c i p e

theorem writePixel_eq (s : State) (c : Cpnt) (gs : Nat) (i : Pix) (q : Nat) (p e : Int) :
    writePixel c gs i q p e s = .ok () (s.pixelWritten c gs i q p e) := rfl

theorem reconSample_of_mem {s t : State} (h : t.mem = s.mem) (c : Cpnt) (p d : Int) :
    reconSample t c p d = reconSample s c p d := by
  simp [reconSample, State.maxval, State.depth, State.bpc, State.isChroma, State.cfgFlag, State.cfg, h]

/-- Three pixels make a unit. -/
theorem pixelsWritten_eq (s : State) (c : Cpnt) (gs q : Nat) (p e : Tri Int) :
    ((s.pixelWritten c gs .i0 q p.a0 e.a0).pixelWritten c gs .i1 q p.a1 e.a1).pixelWritten c gs .i2 q p.a2 e.a2 =
      s.unitWritten c gs q p e := by
  have hmem {t : State} (h : t.mem = s.mem) (i : Pix) (p e : Int) :
      t.pixelWritten c gs i q p e = (t.setCur c (gs + i.toNat) (reconSample s c p (dequantize e q))).setScratch c i p e := by
    rw [State.pixelWritten, reconSample_of_mem h]
  have hfirst : (s.pixelWritten c gs .i0 q p.a0 e.a0).mem = s.mem := rfl
  have hsecond : ((s.pixelWritten c gs .i0 q p.a0 e.a0).pixelWritten c gs .i1 q p.a1 e.a1).mem = s.mem := rfl
  rw [hmem hsecond, hmem hfirst, hmem (t := s) rfl, State.unitWritten, unitSamples]
  generalize reconSample s c p.a0 _ = v0, reconSample s c p.a1 _ = v1, reconSample s c p.a2 _ = v2
  cases c <;> simp [State.setCur, State.setScratch, State.withCur, State.withScratch, State.written, writeCell, writeThree,
    triMap, Tri.set, Tri.get]

theorem unitWritten_overwrites {s : State} {c : Cpnt} (h : storeWf (s.cur.get c)) (gs q q' : Nat) (p e p' e' : Tri Int) :
    (s.unitWritten c gs q p e).unitWritten c gs q' p' e' = s.unitWritten c gs q' p' e' :=
  written_written h gs _ _ _ _ _ _

/-! ### The reconstruction of a unit -/

/-- The reconstruction of a normal unit (44_entropy.md R375 step 3b). -/
def normalRecon (c : Cpnt) (gs q : Nat) (e : Tri Int) : Act Unit := do
  decPixel c gs q .i0 0 0 e.a0
  decPixel c gs q .i1 (dequantize e.a0 q) 0 e.a1
  decPixel c gs q .i2 (dequantize e.a0 q) (dequantize e.a1 q) e.a2

/-- The predictions p of a normal unit with the residuals e: each pixel is predicted with those before it written
(44_entropy.md R363). -/
structure Predicted (s : State) (c : Cpnt) (gs q : Nat) (e p : Tri Int) : Prop where
  first : normPred s c gs .i0 q 0 0 = .ok p.a0
  second : normPred (s.pixelWritten c gs .i0 q p.a0 e.a0) c gs .i1 q (dequantize e.a0 q) 0 = .ok p.a1
  third : normPred ((s.pixelWritten c gs .i0 q p.a0 e.a0).pixelWritten c gs .i1 q p.a1 e.a1) c gs .i2 q
    (dequantize e.a0 q) (dequantize e.a1 q) = .ok p.a2

theorem decRecon_normal {u : UnitCode} (h : u.mpp = false) (c : Cpnt) (gs : Nat) (e : Tri Int) :
    decRecon c gs u e = normalRecon c gs u.plan.q e := by
  rw [decRecon, h]
  rfl

theorem decPixel_eq_ok {s t : State} {c : Cpnt} {gs q : Nat} {i : Pix} {r0 r1 e : Int} {a : Unit} :
    decPixel c gs q i r0 r1 e s = .ok a t ↔
      ∃ p, normPred s c gs i q r0 r1 = .ok p ∧ t = s.pixelWritten c gs i q p e := by
  rw [decPixel, act_bind, act_sense]
  cases hp : normPred s c gs i q r0 r1 with
  | ok p =>
    simp only [writePixel_eq, EStateM.Result.ok.injEq, true_and, Except.ok.injEq, exists_eq_left', eq_comm]
  | error r => simp

theorem normalRecon_eq_ok {s t : State} {c : Cpnt} {gs q : Nat} {e : Tri Int} :
    normalRecon c gs q e s = .ok () t ↔ ∃ p, Predicted s c gs q e p ∧ t = s.unitWritten c gs q p e := by
  simp only [normalRecon, act_bind_eq_ok, decPixel_eq_ok, ← pixelsWritten_eq]
  constructor
  · rintro ⟨_, _, ⟨p0, h0, rfl⟩, _, _, ⟨p1, h1, rfl⟩, p2, h2, rfl⟩
    exact ⟨⟨p0, p1, p2⟩, ⟨h0, h1, h2⟩, rfl⟩
  · rintro ⟨⟨p0, p1, p2⟩, ⟨h0, h1, h2⟩, rfl⟩
    exact ⟨(), _, ⟨p0, h0, rfl⟩, (), _, ⟨p1, h1, rfl⟩, p2, h2, rfl⟩

/-- An MPP unit is reconstructed from its midpoint (44_entropy.md R375 step 3b). -/
theorem decRecon_mpp {s : State} {u : UnitCode} (h : u.mpp = true) {c : Cpnt} {gs : Nat} {mid : Int}
    (hmid : midpointOf s c gs u.plan.q = .ok mid) (e : Tri Int) :
    decRecon c gs u e s = .ok () (s.unitWritten c gs u.plan.q ⟨mid, mid, mid⟩ e) := by
  rw [decRecon, if_pos h, act_bind_ok (act_sense_ok hmid), ← pixelsWritten_eq]
  simp only [Idx3.all, forAll_cons, forAll_nil, act_bind, writePixel_eq, act_pure, Tri.get]

end Sys2Proof.Machine

namespace Sys2Proof.Machine

/-! ## The units of the encoder, as the decoder reconstructs them -/

/-! ### The sizes of a unit -/

/-- A level of the tables is below the depth of its component (41_quantizer.md R231, 00_scope.md R16). -/
theorem mapQpToLevel_lt_depth {s : State} {c : Cpnt} {qp : Int} {q : Nat} (h : mapQpToLevel s c qp = .ok q) :
    q < s.depth c := by
  have hluma (b : Nat) : ∀ q ∈ qlutLuma b, q < b := by
    unfold qlutLuma
    split <;> simp
  have hchroma (b : Nat) : ∀ q ∈ qlutChroma b, q < b + 1 := by
    unfold qlutChroma
    split <;> simp
  have hmem : q ∈ qlutOf s c := by
    unfold mapQpToLevel at h
    split at h
    · cases h
    · split at h
      · cases h
        exact List.mem_of_getElem? ‹_›
      · cases h
  unfold qlutOf at hmem
  unfold State.depth
  split_ifs at hmem with hc
  · have := hchroma _ q hmem
    rwa [hc]
  · have := hluma _ q hmem
    omega

/-- The predicted size of a unit is below its greatest size (44_entropy.md R361). -/
theorem unitPlan_range {s : State} {c : Cpnt} {u : UnitPlan} (h : unitPlan s c = .ok u) : u.p < u.m ∧ u.m ≤ 16 := by
  obtain ⟨q, hq, h⟩ := rd_bind_eq_ok.1 h
  obtain ⟨q', -, h⟩ := rd_bind_eq_ok.1 h
  cases h
  have hlevel := mapQpToLevel_lt_depth hq
  have hdepth := depth_le s c
  simp only [clampInt]
  omega

/-- A word holds a residual of at most 16 bits. -/
theorem word_residual {e : Int} (h : residualSize e ≤ 16) : (BitVec.ofInt 32 e).toInt = e := by
  obtain ⟨low, high⟩ := residual_range (n := 15) h
  exact word_toInt (by omega) (by omega)

theorem residualSize_get_le (e : Tri Int) (i : Pix) : residualSize (e.get i) ≤ residualSize3 e := by
  unfold residualSize3
  cases i <;> simp

/-- A residual held to M bits has at most that size (40_prediction.md R192). -/
theorem residualSize_mppResidual (x : Int) (q : Nat) {m : Nat} (hm : 1 ≤ m) : residualSize (mppResidual x q m) ≤ m := by
  obtain ⟨n, rfl⟩ := Nat.exists_eq_add_of_le' hm
  have hpow : (0 : Int) < 2 ^ n := by positivity
  refine residualSize_le_iff.2 ⟨le_clampInt (by simp only [Nat.add_sub_cancel]; omega), ?_⟩
  have : mppResidual x q (n + 1) ≤ 2 ^ n - 1 := clampInt_le _ _ _
  omega

/-- The residuals that a unit leaves are those it was reconstructed from. -/
theorem residualsOf_unitWritten (s : State) (c : Cpnt) (gs q : Nat) (p : Tri Int) {e : Tri Int}
    (h : ∀ i, residualSize (e.get i) ≤ 16) : residualsOf (s.unitWritten c gs q p e) c = e := by
  have hword (i : Pix) := word_residual (h i)
  simp only [residualsOf, State.unitWritten, State.written, Tri.get_set_self, triMap]
  exact congr (congr (congrArg Tri.mk (hword .i0)) (hword .i1)) (hword .i2)

/-! ### A unit of the encoder -/

/-- A read that answers leaves the state. -/
theorem sense_eq_ok {α : Type} {f : State → Rd α} {s t : State} {a : α} : sense f s = .ok a t ↔ f s = .ok a ∧ s = t := by
  rw [act_sense]
  cases f s <;> simp

theorem decPixel_of_normalPixel {s t : State} {c : Cpnt} {gs q : Nat} {i : Pix} {r0 r1 e : Int}
    (h : normalPixel c gs q i r0 r1 s = .ok e t) : decPixel c gs q i r0 r1 e s = .ok () t := by
  obtain ⟨p, u, hp, h⟩ := act_bind_eq_ok.1 h
  obtain ⟨o, v, ho, h⟩ := act_bind_eq_ok.1 h
  obtain ⟨_, w, hw, h⟩ := act_bind_eq_ok.1 h
  cases h
  obtain ⟨_, -, rfl⟩ := sense_eq_ok.1 ho
  exact (act_bind_ok hp).trans hw

/-- The trial of a normal unit is the decoder's reconstruction of its residuals (44_entropy.md R364, R375). -/
theorem normalRecon_of_normalUnit {s t : State} {c : Cpnt} {gs q : Nat} {e : Tri Int}
    (h : normalUnit c gs q s = .ok e t) : normalRecon c gs q e s = .ok () t := by
  obtain ⟨e0, u, h0, h⟩ := act_bind_eq_ok.1 h
  obtain ⟨e1, v, h1, h⟩ := act_bind_eq_ok.1 h
  obtain ⟨e2, w, h2, h⟩ := act_bind_eq_ok.1 h
  cases h
  exact (act_bind_ok (decPixel_of_normalPixel h0)).trans
    ((act_bind_ok (decPixel_of_normalPixel h1)).trans (decPixel_of_normalPixel h2))

/-- An MPP unit writes residuals held to its width, from its midpoint (44_entropy.md R365). -/
theorem mppUnit_eq_ok {s t : State} {c : Cpnt} {gs : Nat} {u : UnitPlan} (h : mppUnit c gs u s = .ok () t) :
    ∃ mid e, midpointOf s c gs u.q = .ok mid ∧ (∀ i : Pix, ∃ x, e.get i = mppResidual x u.q u.m) ∧
      t = s.unitWritten c gs u.q ⟨mid, mid, mid⟩ e := by
  obtain ⟨mid, _, hread, hpixels⟩ := act_bind_eq_ok.1 h
  obtain ⟨hmid, rfl⟩ := sense_eq_ok.1 hread
  have hpixel {v w : State} {i : Pix} {a : Unit} (hw : mppPixel c gs u mid i v = .ok a w) :
      ∃ x, w = v.pixelWritten c gs i u.q mid (mppResidual x u.q u.m) := by
    obtain ⟨o, x, ho, hwrite⟩ := act_bind_eq_ok.1 hw
    obtain ⟨-, rfl⟩ := sense_eq_ok.1 ho
    cases hwrite
    exact ⟨_, rfl⟩
  simp only [Idx3.all, forAll_cons, forAll_nil] at hpixels
  obtain ⟨_, _, h0, hrest⟩ := act_bind_eq_ok.1 hpixels
  obtain ⟨_, _, h1, hlast⟩ := act_bind_eq_ok.1 hrest
  obtain ⟨_, _, h2, hdone⟩ := act_bind_eq_ok.1 hlast
  cases hdone
  obtain ⟨x0, rfl⟩ := hpixel h0
  obtain ⟨x1, rfl⟩ := hpixel h1
  obtain ⟨x2, rfl⟩ := hpixel h2
  refine ⟨mid, ⟨mppResidual x0 u.q u.m, mppResidual x1 u.q u.m, mppResidual x2 u.q u.m⟩, hmid, fun i => ?_,
    pixelsWritten_eq _ c gs u.q ⟨mid, mid, mid⟩ ⟨mppResidual x0 u.q u.m, mppResidual x1 u.q u.m, mppResidual x2 u.q u.m⟩⟩
  cases i <;> exact ⟨_, rfl⟩

/-- A unit with its residuals, from the state s before it to t: its size lies in its range and holds the residuals, it is an
MPP unit when it has the greatest size, and the decoder's reconstruction leads to t (44_entropy.md R366, R375). -/
structure UnitCoded (s t : State) (c : Cpnt) (gs : Nat) (u : UnitCode) (e : Tri Int) : Prop where
  plan : unitPlan s c = .ok u.plan
  low : u.plan.p ≤ u.s
  high : u.s ≤ u.plan.m
  mpp : u.mpp = (u.s == u.plan.m)
  fits : ∀ i, residualSize (e.get i) ≤ u.s
  recon : decRecon c gs u e s = .ok () t

/-- A unit that is coded has written its pixels from some predictions. -/
theorem decRecon_eq_ok {s t : State} {c : Cpnt} {gs : Nat} {u : UnitCode} {e : Tri Int}
    (h : decRecon c gs u e s = .ok () t) : ∃ p, t = s.unitWritten c gs u.plan.q p e := by
  cases hmpp : u.mpp with
  | true =>
    have hread := h
    rw [decRecon, if_pos hmpp] at hread
    obtain ⟨mid, _, hmid, -⟩ := act_bind_eq_ok.1 hread
    rw [decRecon_mpp hmpp (sense_eq_ok.1 hmid).1] at h
    cases h
    exact ⟨_, rfl⟩
  | false =>
    rw [decRecon_normal hmpp] at h
    obtain ⟨p, -, ht⟩ := normalRecon_eq_ok.1 h
    exact ⟨p, ht⟩

/-- The encoder's unit is the decoder's reconstruction of the residuals it leaves: an MPP unit writes over its trial
(44_entropy.md R366, R375). -/
theorem encUnit_coded {s t : State} {c : Cpnt} {gs : Nat} {u : UnitCode} (wf : storeWf (s.cur.get c))
    (h : encUnit c gs s = .ok u t) : ∃ e, UnitCoded s t c gs u e := by
  obtain ⟨plan, _, hread, hunit⟩ := act_bind_eq_ok.1 h
  obtain ⟨hplan, rfl⟩ := sense_eq_ok.1 hread
  obtain ⟨e, v, htrial, hchoice⟩ := act_bind_eq_ok.1 hunit
  rw [act_bind_ok (act_look _ v)] at hchoice
  obtain ⟨hp, hm⟩ := unitPlan_range hplan
  have hrecon := normalRecon_of_normalUnit htrial
  split at hchoice
  · obtain ⟨_, w, hmpp, hdone⟩ := act_bind_eq_ok.1 hchoice
    cases hdone
    obtain ⟨mid, e', hmid, hresidual, rfl⟩ := mppUnit_eq_ok hmpp
    obtain ⟨p, -, rfl⟩ := normalRecon_eq_ok.1 hrecon
    rw [State.unitWritten, midpointOf_written] at hmid
    refine ⟨e', hplan, hp.le, le_rfl, (beq_self_eq_true _).symm, fun i => ?_, ?_⟩
    · obtain ⟨x, hx⟩ := hresidual i
      exact hx ▸ residualSize_mppResidual x _ (Nat.one_le_of_lt hp)
    · rw [unitWritten_overwrites wf]
      exact decRecon_mpp (u := ⟨plan, true, plan.m⟩) rfl hmid e'
  · rename_i hnormal
    cases hchoice
    have hsize : residualSize3 e < plan.m := by omega
    have hmin : min plan.m (residualSize3 e) = residualSize3 e := min_eq_right hsize.le
    refine ⟨e, hplan, le_max_right _ _, ?_, ?_, fun i => ?_, hrecon⟩
    · dsimp only
      omega
    · have hless : max (residualSize3 e) plan.p ≠ plan.m := by omega
      rw [hmin]
      exact (beq_eq_false_iff_ne.2 hless).symm
    · exact ((residualSize_get_le e i).trans hmin.ge).trans (le_max_left _ _)

end Sys2Proof.Machine

namespace Sys2Proof.Machine

/-! ## The writes of an ICH group -/

/-- A triple by its three components. -/
def triOf {α : Type} (f : Idx3 → α) : Tri α := ⟨f .i0, f .i1, f .i2⟩

@[simp] theorem triOf_get {α : Type} (f : Idx3 → α) (i : Idx3) : (triOf f).get i = f i := by cases i <;> rfl

/-- A sequence of pieces, each of which makes its own change while a property of the state is kept. -/
theorem forAll_foldl {α : Type} {f : α → Act Unit} {g : State → α → State} {P : State → Prop} {l : List α}
    (h : ∀ a ∈ l, ∀ s, P s → f a s = .ok () (g s a) ∧ P (g s a)) {s : State} (hs : P s) :
    forAll f l s = .ok () (l.foldl g s) ∧ P (l.foldl g s) := by
  induction l generalizing s with
  | nil => exact ⟨rfl, hs⟩
  | cons a l ih =>
    obtain ⟨hfirst, hp⟩ := h a List.mem_cons_self s hs
    obtain ⟨hrest, hp'⟩ := ih (fun b hb => h b (List.mem_cons_of_mem _ hb)) hp
    exact ⟨(act_bind_ok hfirst).trans hrest, hp'⟩

/-- Each piece of a sequence that answers has answered, on a state that has what the pieces keep. -/
theorem forAll_each {α : Type} {f : α → Act Unit} {P : State → Prop} (hkeep : ∀ a, Keeps P (f a)) {l : List α} {s t : State}
    (hs : P s) (h : forAll f l s = .ok () t) {a : α} (ha : a ∈ l) : ∃ u v, P u ∧ f a u = .ok () v := by
  induction l generalizing s with
  | nil => cases ha
  | cons b l ih =>
    obtain ⟨_, u, hb, hrest⟩ := act_bind_eq_ok.1 h
    rcases List.mem_cons.1 ha with rfl | ha
    · exact ⟨s, u, hs, hb⟩
    · exact ih (leaves_ok hb ▸ hkeep b s hs) hrest ha

/-- The state with the samples, the predictions and the residuals of the group at gs. -/
def State.groupWritten (s : State) (gs : Nat) (v : Tri (Tri Sample)) (p e : Tri (Tri Word)) : State :=
  { s with
    cur := ⟨writeThree s.cur.a0 gs v.a0, writeThree s.cur.a1 gs v.a1, writeThree s.cur.a2 gs v.a2⟩
    scratch := ⟨e, p⟩ }

theorem written_three (s : State) (gs : Nat) (v : Tri (Tri Sample)) (p e : Tri (Tri Word)) :
    ((s.written .i0 gs v.a0 p.a0 e.a0).written .i1 gs v.a1 p.a1 e.a1).written .i2 gs v.a2 p.a2 e.a2 =
      s.groupWritten gs v p e := rfl

theorem groupWritten_overwrites {s : State} (wf : ∀ c, storeWf (s.cur.get c)) (gs : Nat) (v v' : Tri (Tri Sample))
    (p p' e e' : Tri (Tri Word)) :
    (s.groupWritten gs v p e).groupWritten gs v' p' e' = s.groupWritten gs v' p' e' := by
  have h0 := writeThree_writeThree (wf .i0) gs v.a0 v'.a0
  have h1 := writeThree_writeThree (wf .i1) gs v.a1 v'.a1
  have h2 := writeThree_writeThree (wf .i2) gs v.a2 v'.a2
  simp only [Tri.get_i0, Tri.get_i1, Tri.get_i2] at h0 h1 h2
  simp only [State.groupWritten, h0, h1, h2]

theorem groupWritten_cur (s : State) (gs : Nat) (v : Tri (Tri Sample)) (p e : Tri (Tri Word)) (c : Cpnt) :
    (s.groupWritten gs v p e).cur.get c = writeThree (s.cur.get c) gs (v.get c) := by cases c <;> rfl

/-- The samples of the group are read as written. -/
theorem curRead_groupWritten (s : State) (gs : Nat) (v : Tri (Tri Sample)) (p e : Tri (Tri Word)) (c : Cpnt) (i : Pix) :
    curRead (s.groupWritten gs v p e) c ((gs : Int) + i.toNat) = .ok (((v.get c).get i).toNat : Int) := by
  rw [curRead_inside c (by omega)]
  refine readCell_some ?_
  rw [groupWritten_cur, show ((gs : Int) + i.toNat).toNat = gs + i.toNat by omega, storeRead_writeThree_pixel]

/-- What an entry of the cache names is a sample (42_ich.md R262). -/
theorem historyLookup_sample {s : State} {k : Nat} {c : Cpnt} {gs x : Int} (h : historyLookup s k c gs = .ok x) :
    ∃ v : Sample, x = (v.toNat : Int) := by
  unfold historyLookup at h
  split at h
  · unfold prevRead at h
    split at h
    · cases h
    · obtain ⟨v, -, hv⟩ := readCell_eq_ok h
      exact ⟨v, hv⟩
  · split at h
    · cases h
      exact ⟨_, rfl⟩
    · cases h

/-- The samples that three entries name at the group at gs (42_ich.md R262). -/
def Looked (s : State) (gs : Nat) (ks : Tri Nat) (x : Tri (Tri Sample)) : Prop :=
  ∀ (i : Pix) (c : Cpnt), historyLookup s (ks.get i) c gs = .ok (((x.get c).get i).toNat : Int)

/-- An ICH group's predictions are its samples. -/
def ichWords (x : Tri (Tri Sample)) : Tri (Tri Word) := triMap (triMap fun v : Sample => BitVec.ofInt 32 v.toNat) x

/-- An ICH group writes the samples its entries name, with residuals 0 (42_ich.md R275, 44_entropy.md R375). -/
theorem ichGroup_eq {s : State} {gs : Nat} {ks : Tri Nat} {x : Tri (Tri Sample)} (h : Looked s gs ks x) :
    ichGroup gs ks s = .ok () (s.groupWritten gs x (ichWords x) (Tri.fill (Tri.fill 0))) := by
  have hrecon := (forAll_foldl (f := fun ic : Pix × Cpnt => ichRecon gs ks ic.1 ic.2) (P := fun u => Looked u gs ks x)
    (g := fun u ic => u.setCur ic.2 (gs + ic.1.toNat) ((x.get ic.2).get ic.1).toNat) (l := pixelPairs 3)
    (fun ic _ u hu => ⟨act_bind_ok (act_sense_ok (hu ic.1 ic.2)), hu⟩) h).1
  have hcur : (pixelPairs 3).foldl (fun u ic => u.setCur ic.2 (gs + ic.1.toNat) ((x.get ic.2).get ic.1).toNat) s =
      s.groupWritten gs x s.scratch.pred s.scratch.qres := by
    simp [pixelPairs, Idx3.all, State.setCur, State.withCur, State.groupWritten, writeCell, writeThree, Tri.set]
  have hread : ∀ (i : Pix) (c : Cpnt), curRead (s.groupWritten gs x s.scratch.pred s.scratch.qres) c ((gs : Int) + i.toNat) =
      .ok (((x.get c).get i).toNat : Int) := fun i c => curRead_groupWritten s gs x _ _ c i
  have hscratch := (forAll_foldl (f := fun ic : Pix × Cpnt => ichScratch gs ic.1 ic.2)
    (P := fun u => ∀ (i : Pix) (c : Cpnt), curRead u c ((gs : Int) + i.toNat) = .ok (((x.get c).get i).toNat : Int))
    (g := fun u ic => u.setScratch ic.2 ic.1 ((x.get ic.2).get ic.1).toNat 0) (l := pixelPairs 3)
    (fun ic _ u hu => ⟨act_bind_ok (act_sense_ok (hu ic.1 ic.2)), hu⟩) hread).1
  rw [hcur] at hrecon
  refine (act_bind_ok hrecon).trans (hscratch.trans (congrArg _ ?_))
  simp [pixelPairs, Idx3.all, State.setScratch, State.withScratch, State.groupWritten, ichWords, triMap, Tri.set, Tri.fill]

/-- An ICH group that answers has looked up its entries. -/
theorem ichGroup_looked {s t : State} {gs : Nat} {ks : Tri Nat} (h : ichGroup gs ks s = .ok () t) :
    ∃ x, Looked s gs ks x := by
  obtain ⟨_, u, hrecon, -⟩ := act_bind_eq_ok.1 h
  have hsample (i : Pix) (c : Cpnt) : ∃ v : Sample, historyLookup s (ks.get i) c gs = .ok (v.toNat : Int) := by
    have hkeep (ic : Pix × Cpnt) : Keeps (fun u => ∀ k c, historyLookup u k c gs = historyLookup s k c gs)
        (ichRecon gs ks ic.1 ic.2) := keeps_bind (keeps_sense _) fun v => keeps_update fun _ hu => hu
    have hmem : (i, c) ∈ pixelPairs 3 := by cases i <;> cases c <;> decide
    obtain ⟨v, w, hv, hread⟩ := forAll_each hkeep (fun _ _ => rfl) hrecon hmem
    obtain ⟨x, _, hx, -⟩ := act_bind_eq_ok.1 hread
    have hlookup := (sense_eq_ok.1 hx).1
    rw [hv] at hlookup
    obtain ⟨y, rfl⟩ := historyLookup_sample hlookup
    exact ⟨y, hlookup⟩
  choose f hf using hsample
  exact ⟨triOf fun c => triOf fun i => f i c, fun i c => by simpa using hf i c⟩

end Sys2Proof.Machine

namespace Sys2Proof.Machine

/-! ## The bits of a group, sent and read -/

/-! ### What a call sends -/

theorem putList_eq_ok {ss : Cpnt} {bs : List Bool} {s t : State} {n : Nat} (h : putList ss bs s = .ok n t) :
    n = bs.length ∧ t = s.withIo (s.io.put ss bs) := by
  rw [act_putList] at h
  split at h
  · cases h
    exact ⟨rfl, rfl⟩
  · cases h

theorem putBits_eq_ok {ss : Cpnt} {k v : Nat} {s t : State} {n : Nat} (h : putBits ss k v s = .ok n t) :
    n = k ∧ t = s.withIo (s.io.put ss (toBits k v)) := by
  obtain ⟨hn, ht⟩ := putList_eq_ok h
  exact ⟨hn.trans (toBits_length k v), ht⟩

theorem put_sink (io : BitIo) (ss ss' : Cpnt) (bs : List Bool) :
    (io.put ss bs).sink.get ss' = io.sink.get ss' ++ if ss' = ss then bs else [] := by
  simp only [BitIo.put, Tri.get_set]
  split_ifs with h
  · rw [h]
  · rw [List.append_nil]

/-- The bits of three residuals of n bits (30_encoding.md R154). -/
def residualWire (n : Nat) (e : Tri Int) : List Bool :=
  toBits n (e.a0 % 2 ^ n).toNat ++ (toBits n (e.a1 % 2 ^ n).toNat ++ toBits n (e.a2 % 2 ^ n).toNat)

theorem residualWire_length (n : Nat) (e : Tri Int) : (residualWire n e).length = 3 * n := by
  simp only [residualWire, List.length_append, toBits_length]
  omega

/-- The bits of a unit (30_encoding.md R152, R154). -/
def codeWire (c : Cpnt) (l : Bool) (u : UnitCode) (e : Tri Int) : List Bool :=
  unaryBits (prefixValue c l u.plan u.s) (prefixMax c u.plan) ++ residualWire u.s e

theorem codeWire_length (c : Cpnt) (l : Bool) {u : UnitCode} (h : u.s ≤ u.plan.m) (e : Tri Int) :
    (codeWire c l u e).length = unitBits c l u := by
  rw [codeWire, List.length_append, residualWire_length, unaryBits_length _ _ (prefixValue_le c l h), unitBits]

/-- A unit sends its unary code and the residuals in the scratch registers (44_entropy.md R370 step 4). -/
theorem putUnit_eq_ok {l : Bool} {c : Cpnt} {u : UnitCode} {s t : State} {n : Nat} (h : putUnit l c u s = .ok n t) :
    n = (codeWire c l u (residualsOf s c)).length ∧ t = s.withIo (s.io.put c (codeWire c l u (residualsOf s c))) := by
  have hresidual {v w : State} {i : Pix} {k : Nat} (hw : putResidual c u.s i v = .ok k w) :
      k = u.s ∧ w = v.withIo (v.io.put c (toBits u.s (((v.scratch.qres.get c).get i).toInt % 2 ^ u.s).toNat)) :=
    putBits_eq_ok (h := (act_bind_ok (act_look _ v)).symm.trans hw)
  obtain ⟨_, _, hprefix, h⟩ := act_bind_eq_ok.1 h
  obtain ⟨_, _, h0, h⟩ := act_bind_eq_ok.1 h
  obtain ⟨_, _, h1, h⟩ := act_bind_eq_ok.1 h
  obtain ⟨_, _, h2, h⟩ := act_bind_eq_ok.1 h
  cases h
  obtain ⟨rfl, rfl⟩ := putList_eq_ok hprefix
  obtain ⟨rfl, rfl⟩ := hresidual h0
  obtain ⟨rfl, rfl⟩ := hresidual h1
  obtain ⟨rfl, rfl⟩ := hresidual h2
  refine ⟨?_, ?_⟩
  · simp only [codeWire, List.length_append, residualWire_length]
    omega
  · simp [codeWire, residualWire, residualsOf, put_put, State.withIo]

/-! ### What the decoder reads -/

theorem getResidual_front {s : State} {ss : Cpnt} {e : Int} {n : Nat} {rest : List Bool} (h : residualSize e ≤ n)
    (hsource : s.io.source.get ss = toBits n (e % 2 ^ n).toNat ++ rest) :
    getResidual ss n s = .ok e (s.withSource ss rest) := residualReadsBack s ss e n rest h hsource

/-- A unit whose residuals stand at the front of its substream is read and reconstructed (44_entropy.md R375 step 3b). -/
theorem decUnit_front {s t : State} {c : Cpnt} {gs : Nat} {l : Bool} {u : UnitPlan} {v n : Nat} {e : Tri Int}
    {rest : List Bool} (hsize : sizeOfPrefix c l u v = n) (fits : ∀ i, residualSize (e.get i) ≤ n)
    (hsource : s.io.source.get c = residualWire n e ++ rest)
    (hrecon : decRecon c gs ⟨u, n == u.m, n⟩ e (s.withSource c rest) = .ok () t) :
    decUnit c gs l u v s = .ok ⟨u, n == u.m, n⟩ t := by
  rw [residualWire, List.append_assoc, List.append_assoc] at hsource
  have next (i : Pix) (bs : List Bool) :
      getResidual c n (s.withSource c (toBits n (e.get i % 2 ^ n).toNat ++ bs)) = .ok (e.get i) (s.withSource c bs) := by
    have hread := getResidual_front (fits i) (withSource_source s c (toBits n (e.get i % 2 ^ n).toNat ++ bs))
    rwa [withSource_withSource] at hread
  have hfirst := getResidual_front (fits .i0) hsource
  subst hsize
  exact (act_bind_ok hfirst).trans ((act_bind_ok (next .i1 _)).trans ((act_bind_ok (next .i2 _)).trans (act_bind_ok hrecon)))

/-- The decoder's image with the rest of a substream. -/
theorem asDecoder_withSource (s : State) (port : Port) (orig : LineBuf) (io : BitIo) (ss : Cpnt) (bs : List Bool) :
    (s.asDecoder port orig io).withSource ss bs =
      s.asDecoder port orig { io with source := io.source.set ss bs } := rfl

section Unit

variable {s t : State} {c : Cpnt} {gs : Nat} {u : UnitCode} {e : Tri Int}

theorem UnitCoded.code_eq (h : UnitCoded s t c gs u e) : (⟨u.plan, u.s == u.plan.m, u.s⟩ : UnitCode) = u := by
  rw [← h.mpp]

/-- The decoder reads the residuals of a coded unit and reconstructs it. -/
theorem UnitCoded.decUnit (h : UnitCoded s t c gs u e) (l : Bool) (port : Port) (orig : LineBuf) {io : BitIo}
    {rest : List Bool} (hsource : io.source.get c = residualWire u.s e ++ rest) :
    decUnit c gs l u.plan (prefixValue c l u.plan u.s) (s.asDecoder port orig io) =
      .ok u (t.asDecoder port orig { io with source := io.source.set c rest }) := by
  have hrecon := (decRecon_blind c gs u e s () t h.recon).2 port orig { io with source := io.source.set c rest }
  have hread := decUnit_front (s := s.asDecoder port orig io) (gs := gs) (sizeOfPrefix_prefixValue c l h.low) h.fits hsource
    (h.code_eq.symm ▸ hrecon)
  rwa [h.code_eq] at hread

/-- The decoder reads the bits of a coded chroma unit and reconstructs it. -/
theorem UnitCoded.decChroma (h : UnitCoded s t c gs u e) (l : Bool) (port : Port) (orig : LineBuf) {io : BitIo}
    {rest : List Bool} (hsource : io.source.get c = codeWire c l u e ++ rest) :
    decChroma c gs l u.plan (s.asDecoder port orig io) =
      .ok u (t.asDecoder port orig { io with source := io.source.set c rest }) := by
  rw [codeWire, List.append_assoc] at hsource
  have hprefix := getUnary_unaryBits (s := s.asDecoder port orig io) (prefixValue_le c l h.high) hsource
  rw [asDecoder_withSource] at hprefix
  have hunit := h.decUnit l port orig (io := { io with source := io.source.set c (residualWire u.s e ++ rest) })
    (Tri.get_set_self _ _ _)
  rw [tri_set_set] at hunit
  exact (act_bind_ok hprefix).trans hunit

end Unit

/-! ### The flatness fields -/

/-- A flatness record that is not valid is the empty one (log entry 16). -/
theorem flatScan_invalid {s : State} {gs : Nat} {qp : Int} {l : List Nat} {f : FlatRec} (h : flatScan s gs qp l = .ok f)
    (hf : f.valid = false) : f = FlatRec.zero := by
  induction l with
  | nil => cases h; rfl
  | cons p l ih =>
    rw [flatScan] at h
    split at h
    · cases h; rfl
    · obtain ⟨k, -, hk⟩ := rd_bind_eq_ok.1 h
      cases k with
      | none => exact ih hk
      | somewhat | very => cases hk; cases hf

/-- A record sends its fields (30_encoding.md R151). -/
theorem putFlatFields_eq_ok {f : FlatRec} {s t : State} {n : Nat} (h : putFlatFields f s = .ok n t) :
    n = (if f.valid = true then 4 else 1) ∧ t = s.withIo (s.io.put .i0 (recordWire f)) := by
  obtain ⟨_, _, hflag, h⟩ := act_bind_eq_ok.1 h
  obtain ⟨rfl, rfl⟩ := putBits_eq_ok hflag
  rw [toBits_one_toNat] at h
  split at h
  · rename_i hv
    obtain ⟨_, _, hpos, hrest⟩ := act_bind_eq_ok.1 h
    obtain ⟨_, _, htype, hdone⟩ := act_bind_eq_ok.1 hrest
    cases hdone
    obtain ⟨rfl, rfl⟩ := putBits_eq_ok hpos
    obtain ⟨rfl, rfl⟩ := putBits_eq_ok htype
    rw [toBits_one_toNat, if_pos hv, recordWire, if_pos hv]
    exact ⟨rfl, by simp [put_put, State.withIo, hv]⟩
  · rename_i hv
    cases h
    rw [if_neg hv, recordWire, if_neg hv]
    simp [hv]

/-- A record is read from its fields (44_entropy.md R375 step 1). -/
theorem getFlatFields_record {f : FlatRec} (hf : f.valid = false → f = FlatRec.zero) {s : State} {rest : List Bool}
    (hsource : s.io.source.get .i0 = recordWire f ++ rest) :
    getFlatFields s = .ok (f, if f.valid = true then 4 else 1) (s.withSource .i0 rest) := by
  cases hv : f.valid with
  | false =>
    rw [recordWire, hv] at hsource
    exact (act_bind_ok (getBits_front (bs := [false]) (n := 1) hsource rfl)).trans (by rw [hf hv]; rfl)
  | true =>
    obtain ⟨valid, very, pos⟩ := f
    cases hv
    have hflag := getBits_front (n := 1) (bs := [true]) (rest := toBits 2 pos.toNat ++ ([very] ++ rest))
      (hsource.trans (by simp [recordWire])) rfl
    have hpos := getBits_front (s := s.withSource .i0 (toBits 2 pos.toNat ++ ([very] ++ rest))) (withSource_source s .i0 _)
      (toBits_length 2 pos.toNat)
    have htype := getBits_front (s := s.withSource .i0 ([very] ++ rest)) (n := 1) (withSource_source s .i0 _) rfl
    rw [withSource_withSource, ofBits_toBits, Nat.mod_eq_of_lt pos.isLt] at hpos
    rw [withSource_withSource, ofBits_singleton] at htype
    refine (act_bind_ok hflag).trans ((congrFun (if_pos rfl) _).trans ((act_bind_ok hpos).trans ((act_bind_ok htype).trans ?_)))
    rw [BitVec.ofNat_toNat, BitVec.setWidth_eq]
    cases very <;> rfl

/-- The decoder reads the flatness fields that the encoder sends (44_entropy.md R370, R375 step 1). -/
theorem decFlat_follows (s : State) (gs : Nat) : Follows s (encFlat gs) decFlat := by
  intro n t h
  by_cases hp : flatPresent s
  · rw [encFlat_present hp] at h
    obtain ⟨f, _, hread, hput⟩ := act_bind_eq_ok.1 h
    obtain ⟨hdetect, rfl⟩ := sense_eq_ok.1 hread
    obtain ⟨k, _, hfields, hdone⟩ := act_bind_eq_ok.1 hput
    cases hdone
    obtain ⟨rfl, rfl⟩ := putFlatFields_eq_ok hfields
    refine ⟨⟨recordWire f, [], []⟩, fun ss => ?_, fun port orig io rest hsource => ?_⟩
    · refine (put_sink _ _ ss _).trans ?_
      cases ss <;> rfl
    · have hget := getFlatFields_record (flatScan_invalid hdetect) (s := s.asDecoder port orig io) (hsource .i0)
      have hpd : flatPresent (s.asDecoder port orig io) := hp
      rw [decFlat_present hpd, act_bind_ok hget]
      have hrest : io.source.set .i0 rest.a0 = rest := by
        refine Tri.ext_get fun ss => ?_
        have h1 := hsource .i1
        have h2 := hsource .i2
        cases ss <;> simp_all [Tri.set, Tri.get]
      rw [asDecoder_withSource, Tri.get_i0, hrest]
      rfl
  · rw [encFlat_absent hp] at h
    cases h
    refine ⟨Tri.fill [], fun ss => by simp [State.flatSkipped], fun port orig io rest hsource => ?_⟩
    have hpd : ¬ flatPresent (s.asDecoder port orig io) := hp
    have hrest : io.source = rest := Tri.ext_get fun ss => by simpa using hsource ss
    rw [decFlat_absent hpd, ← hrest]
    rfl

end Sys2Proof.Machine

namespace Sys2Proof.Machine

/-! ## Lockstep -/

/-! ### The units -/

/-- The three units of a group, in component order, with their residuals (44_entropy.md R370 steps 2 and 3). -/
structure UnitsCoded (s t : State) (gs : Nat) (us : Tri UnitCode) (e : Tri (Tri Int)) : Prop where
  steps : ∃ u v, UnitCoded s u .i0 gs us.a0 e.a0 ∧ UnitCoded u v .i1 gs us.a1 e.a1 ∧ UnitCoded v t .i2 gs us.a2 e.a2

theorem codeUnits_coded {s t : State} {gs : Nat} {us : Tri UnitCode} (wf : ∀ c, storeWf (s.cur.get c))
    (h : codeUnits gs s = .ok us t) : ∃ e, UnitsCoded s t gs us e := by
  obtain ⟨u0, u, h0, h⟩ := act_bind_eq_ok.1 h
  obtain ⟨u1, v, h1, h⟩ := act_bind_eq_ok.1 h
  obtain ⟨u2, w, h2, h⟩ := act_bind_eq_ok.1 h
  cases h
  obtain ⟨e0, hc0⟩ := encUnit_coded (wf .i0) h0
  obtain ⟨_, rfl⟩ := decRecon_eq_ok hc0.recon
  have wf0 := written_wf wf .i0 gs (unitSamples s .i0 u0.plan.q ‹_› e0)
    (triMap (BitVec.ofInt 32) ‹_›) (triMap (BitVec.ofInt 32) e0)
  obtain ⟨e1, hc1⟩ := encUnit_coded (wf0 .i1) h1
  obtain ⟨_, rfl⟩ := decRecon_eq_ok hc1.recon
  obtain ⟨e2, hc2⟩ := encUnit_coded (written_wf wf0 .i1 gs _ _ _ .i2) h2
  exact ⟨⟨e0, e1, e2⟩, _, _, hc0, hc1, hc2⟩

section Units

variable {s t : State} {gs : Nat} {us : Tri UnitCode} {e : Tri (Tri Int)}

/-- The units write the group's pixels and scratch registers, and nothing else. -/
theorem UnitsCoded.written (h : UnitsCoded s t gs us e) : ∃ v p w, t = s.groupWritten gs v p w := by
  obtain ⟨_, _, h0, h1, h2⟩ := h.steps
  obtain ⟨p0, rfl⟩ := decRecon_eq_ok h0.recon
  obtain ⟨p1, rfl⟩ := decRecon_eq_ok h1.recon
  obtain ⟨p2, rfl⟩ := decRecon_eq_ok h2.recon
  exact ⟨⟨_, _, _⟩, ⟨_, _, _⟩, ⟨_, _, _⟩, rfl⟩

/-- The sizes of the units are those of the state before the group. -/
theorem UnitsCoded.plans (h : UnitsCoded s t gs us e) :
    readTri (fun c => unitPlan s c) = .ok ⟨us.a0.plan, us.a1.plan, us.a2.plan⟩ := by
  obtain ⟨_, _, h0, h1, h2⟩ := h.steps
  obtain ⟨p0, rfl⟩ := decRecon_eq_ok h0.recon
  obtain ⟨p1, rfl⟩ := decRecon_eq_ok h1.recon
  have plan1 : unitPlan s .i1 = .ok us.a1.plan := h1.plan
  have plan2 : unitPlan s .i2 = .ok us.a2.plan := h2.plan
  refine readTri_ok fun c => ?_
  cases c
  · exact h0.plan
  · exact plan1
  · exact plan2

theorem UnitCoded.residuals {c : Cpnt} {u : UnitCode} {e : Tri Int} (h : UnitCoded s t c gs u e) : residualsOf t c = e := by
  obtain ⟨p, rfl⟩ := decRecon_eq_ok h.recon
  exact residualsOf_unitWritten s c gs _ p fun i => (h.fits i).trans (h.high.trans (unitPlan_range h.plan).2)

/-- The scratch registers hold the residuals of all three units. -/
theorem UnitsCoded.residuals (h : UnitsCoded s t gs us e) (c : Cpnt) : residualsOf t c = e.get c := by
  obtain ⟨u, v, h0, h1, h2⟩ := h.steps
  have r0 := h0.residuals
  have r1 := h1.residuals
  have r2 := h2.residuals
  obtain ⟨_, rfl⟩ := decRecon_eq_ok h1.recon
  obtain ⟨_, rfl⟩ := decRecon_eq_ok h2.recon
  cases c
  · exact r0
  · exact r1
  · exact r2

end Units

/-! ### The bits of a group -/

/-- The bits of three units, by substream (30_encoding.md R151). -/
def unitsWire (l : Bool) (us : Tri UnitCode) (e : Tri (Tri Int)) : Tri (List Bool) :=
  ⟨codeWire .i0 l us.a0 e.a0, codeWire .i1 l us.a1 e.a1, codeWire .i2 l us.a2 e.a2⟩

/-- The units are sent, and nothing else changes (44_entropy.md R370 step 4). -/
theorem encEmit_units {s t : State} {gs : Nat} {us : Tri UnitCode} {e : Tri (Tri Int)} {r : Nat × GroupCode}
    (hres : ∀ c, residualsOf s c = e.get c) (h : encEmit gs us none s = .ok r t) :
    r = ((codeWire .i0 s.mode.ichSelected us.a0 e.a0).length + (codeWire .i1 s.mode.ichSelected us.a1 e.a1).length +
        (codeWire .i2 s.mode.ichSelected us.a2 e.a2).length, .units us) ∧
      ∃ io, t = s.withIo io ∧ ∀ ss, io.sink.get ss = s.io.sink.get ss ++ (unitsWire s.mode.ichSelected us e).get ss := by
  rw [encEmit, act_bind_ok (act_look _ s)] at h
  obtain ⟨_, _, h0, h⟩ := act_bind_eq_ok.1 h
  obtain ⟨_, _, h1, h⟩ := act_bind_eq_ok.1 h
  obtain ⟨_, _, h2, h⟩ := act_bind_eq_ok.1 h
  cases h
  have hput {io : BitIo} {c : Cpnt} {u : UnitCode} {n : Nat} {w : State}
      (hw : putUnit s.mode.ichSelected c u (s.withIo io) = .ok n w) :
      n = (codeWire c s.mode.ichSelected u (e.get c)).length ∧
        w = s.withIo (io.put c (codeWire c s.mode.ichSelected u (e.get c))) := by
    have hsent := putUnit_eq_ok hw
    rwa [show residualsOf (s.withIo io) c = e.get c from hres c] at hsent
  obtain ⟨rfl, rfl⟩ := hput (io := s.io) h0
  obtain ⟨rfl, rfl⟩ := hput h1
  obtain ⟨rfl, rfl⟩ := hput h2
  refine ⟨rfl, _, rfl, fun ss => ?_⟩
  simp only [put_sink]
  cases ss <;> simp [unitsWire]

end Sys2Proof.Machine

namespace Sys2Proof.Machine

/-- The decoder reads the units that the encoder sent (44_entropy.md R375 steps 2 and 3). -/
theorem decRead_units {s t : State} {gs : Nat} {us : Tri UnitCode} {e : Tri (Tri Int)} (h : UnitsCoded s t gs us e)
    (port : Port) (orig : LineBuf) {io : BitIo} {rest : Tri (List Bool)}
    (hsource : ∀ ss, io.source.get ss = (unitsWire s.mode.ichSelected us e).get ss ++ rest.get ss) :
    decRead gs ⟨us.a0.plan, us.a1.plan, us.a2.plan⟩ (s.asDecoder port orig io) =
      .ok ((codeWire .i0 s.mode.ichSelected us.a0 e.a0).length + (codeWire .i1 s.mode.ichSelected us.a1 e.a1).length +
          (codeWire .i2 s.mode.ichSelected us.a2 e.a2).length, .units us)
        (t.asDecoder port orig { io with source := rest }) := by
  obtain ⟨u, v, h0, h1, h2⟩ := h.steps
  generalize hl : s.mode.ichSelected = l at hsource ⊢
  have hluma : io.source.get .i0 = unaryBits (prefixValue .i0 l us.a0.plan us.a0.s) (prefixMax .i0 us.a0.plan) ++
      (residualWire us.a0.s e.a0 ++ rest.a0) := (hsource .i0).trans (List.append_assoc _ _ _)
  have hprefix := getUnary_unaryBits (s := s.asDecoder port orig io) (prefixValue_le .i0 l h0.high) hluma
  rw [asDecoder_withSource] at hprefix
  have hno : ¬ isEscape l us.a0.plan (prefixValue .i0 l us.a0.plan us.a0.s) = true := by
    rw [isEscape_prefixValue l h0.high]
    exact Bool.false_ne_true
  have read0 := h0.decUnit l port orig
    (io := { io with source := io.source.set .i0 (residualWire us.a0.s e.a0 ++ rest.a0) }) (rest := rest.a0)
    rfl
  have read1 := h1.decChroma l port orig
    (io := { io with source := io.source.set .i0 rest.a0 }) (rest := rest.a1) (hsource .i1)
  have read2 := h2.decChroma l port orig
    (io := { io with source := (io.source.set .i0 rest.a0).set .i1 rest.a1 }) (rest := rest.a2) (hsource .i2)
  rw [tri_set_set] at read0
  have hlook : look (fun s => s.mode.ichSelected) (s.asDecoder port orig io) = .ok l (s.asDecoder port orig io) :=
    congrArg (fun b => EStateM.Result.ok b _) hl
  refine (act_bind_ok hlook).trans ((act_bind_ok hprefix).trans ?_)
  refine (congrFun (if_neg hno) _).trans ((act_bind_ok read0).trans ((act_bind_ok read1).trans ((act_bind_ok read2).trans ?_)))
  rw [codeWire_length _ _ h0.high, codeWire_length _ _ h1.high, codeWire_length _ _ h2.high]
  rfl

/-! ### The indices -/

/-- A list of reads that answers has read each of its values. -/
theorem readAll_mem {α β : Type} {f : α → Rd β} {l : List α} {bs : List β} (h : readAll f l = .ok bs) {b : β} (hb : b ∈ bs) :
    ∃ a ∈ l, f a = .ok b := by
  induction l generalizing bs with
  | nil => cases h; cases hb
  | cons a l ih =>
    obtain ⟨b', ha, h⟩ := rd_bind_eq_ok.1 h
    obtain ⟨bs', hrest, h⟩ := rd_bind_eq_ok.1 h
    cases h
    rcases List.mem_cons.1 hb with rfl | hb
    · exact ⟨a, List.mem_cons_self, ha⟩
    · obtain ⟨a', ha', hread⟩ := ih hrest hb
      exact ⟨a', List.mem_cons_of_mem _ ha', hread⟩

/-- The encoder picks a valid entry (42_ich.md R267). -/
theorem pickBestHistoryValue_valid {s : State} {h k : Nat} (hpick : pickBestHistoryValue s h = .ok (some k)) :
    k < 32 ∧ ichValidAt s k = true := by
  obtain ⟨ds, hds, hbest⟩ := rd_bind_eq_ok.1 hpick
  obtain ⟨⟨k', m⟩, hentry, rfl⟩ := Option.map_eq_some_iff.1 (Except.ok.inj hbest)
  obtain ⟨d, hd⟩ := bestEntry_mem hentry
  obtain ⟨k, hk, hdiff⟩ := readAll_mem hds hd
  obtain ⟨d', -, hpair⟩ := rd_bind_eq_ok.1 hdiff
  cases hpair
  exact mem_ichValidList.1 hk

/-- The entries of an ICH group are valid (44_entropy.md R368). -/
theorem ichDecision_valid {s : State} {gs : Nat} {us : Tri UnitCode} {ks : Tri Nat}
    (h : ichDecision s gs us = .ok (some ks)) (i : Pix) : ks.get i < 32 ∧ ichValidAt s (ks.get i) = true := by
  unfold ichDecision at h
  split at h
  · cases h
  · obtain ⟨ok, -, hok⟩ := rd_bind_eq_ok.1 h
    split at hok
    · cases hok
    · obtain ⟨picks, hpicks, hsome⟩ := rd_bind_eq_ok.1 hok
      split at hsome
      · rename_i k0 k1 k2 e0 e1 e2
        obtain ⟨costN, -, hcost⟩ := rd_bind_eq_ok.1 hsome
        obtain ⟨costI, -, hchosen⟩ := rd_bind_eq_ok.1 hcost
        have hks := Except.ok.inj hchosen
        split at hks
        · cases hks
          have hpick := readTri_eq_ok hpicks i
          cases i
          · exact pickBestHistoryValue_valid (hpick.trans (congrArg _ e0))
          · exact pickBestHistoryValue_valid (hpick.trans (congrArg _ e1))
          · exact pickBestHistoryValue_valid (hpick.trans (congrArg _ e2))
        · cases hks
      · cases hsome

/-- The bits of three indices (30_encoding.md R155). -/
def indexWire (ks : Tri Nat) : List Bool := toBits 5 ks.a0 ++ (toBits 5 ks.a1 ++ toBits 5 ks.a2)

/-- The bits of an ICH group (30_encoding.md R152, R155). -/
def escapeWire (l : Bool) (u : UnitPlan) (ks : Tri Nat) : List Bool :=
  unaryBits (escapeValue l u) (prefixMax .i0 u) ++ indexWire ks

theorem escapeWire_length (l : Bool) (u : UnitPlan) (ks : Tri Nat) :
    (escapeWire l u ks).length = unaryLen (escapeValue l u) (prefixMax .i0 u) + 3 * 5 := by
  simp [escapeWire, indexWire, unaryBits_length _ _ (escapeValue_le l u)]

/-- The state with the indices of an ICH group (44_entropy.md R370, R375). -/
def State.indexed (s : State) (ks : Tri Nat) : State :=
  s.withMode { s.mode with ichIdx := triMap (BitVec.ofNat 5) ks }

/-- An ICH group sends its escape and its indices and writes the samples (44_entropy.md R370 step 4). -/
theorem encEmit_ich {s t : State} {gs : Nat} {us : Tri UnitCode} {ks : Tri Nat} {r : Nat × GroupCode}
    (h : encEmit gs us (some ks) s = .ok r t) :
    r = ((escapeWire s.mode.ichSelected us.a0.plan ks).length, .ich) ∧
      ichGroup gs ks ((s.withIo (s.io.put .i0 (escapeWire s.mode.ichSelected us.a0.plan ks))).indexed ks) = .ok () t := by
  rw [encEmit, act_bind_ok (act_look _ s)] at h
  obtain ⟨_, _, hgroup, h⟩ := act_bind_eq_ok.1 h
  cases h
  obtain ⟨_, _, hescape, hgroup⟩ := act_bind_eq_ok.1 hgroup
  obtain ⟨_, _, h0, hgroup⟩ := act_bind_eq_ok.1 hgroup
  obtain ⟨_, _, h1, hgroup⟩ := act_bind_eq_ok.1 hgroup
  obtain ⟨_, _, h2, hgroup⟩ := act_bind_eq_ok.1 hgroup
  obtain ⟨_, _, hich, hgroup⟩ := act_bind_eq_ok.1 hgroup
  cases hgroup
  have hindex {io : BitIo} {m : ModeRegs} {w : State} {i : Pix} {n : Nat}
      (hw : putIchIdx ks i ((s.withIo io).withMode m) = .ok n w) :
      n = 5 ∧ w = (s.withIo (io.put .i0 (toBits 5 (ks.get i)))).withMode
        { m with ichIdx := m.ichIdx.set i (BitVec.ofNat 5 (ks.get i)) } := by
    obtain ⟨k, x, hput, hset⟩ := act_bind_eq_ok.1 hw
    cases hset
    obtain ⟨rfl, rfl⟩ := putBits_eq_ok hput
    exact ⟨rfl, rfl⟩
  obtain ⟨rfl, rfl⟩ := putList_eq_ok hescape
  obtain ⟨rfl, rfl⟩ := hindex (io := s.io.put .i0 _) (m := s.mode) h0
  obtain ⟨rfl, rfl⟩ := hindex (io := (s.io.put .i0 _).put .i0 _) h1
  obtain ⟨rfl, rfl⟩ := hindex (io := ((s.io.put .i0 _).put .i0 _).put .i0 _) h2
  refine ⟨?_, ?_⟩
  · simp [escapeWire, indexWire]
  · rw [put_put, put_put, put_put] at hich
    exact hich

/-- An index of a valid entry is read (44_entropy.md R375 step 3a). -/
theorem getIchIdx_front {s : State} {k : Nat} {rest : List Bool} (i : Pix) (hk : k < 32) (hvalid : ichValidAt s k = true)
    (hsource : s.io.source.get .i0 = toBits 5 k ++ rest) :
    getIchIdx i s = .ok k ((s.withSource .i0 rest).setIchIdx i k) := by
  have hbits : getBits ichIndexSubstream ichIndexBits s = .ok k (s.withSource .i0 rest) := by
    rw [show getBits ichIndexSubstream ichIndexBits s = _ from getBits_front hsource (toBits_length 5 k), ofBits_toBits,
      Nat.mod_eq_of_lt (show k < 2 ^ 5 from hk)]
    rfl
  exact (act_bind_ok hbits).trans (act_bind_ok (act_demand_pos (s := s.withSource .i0 rest) hvalid))

/-- The indices of valid entries are read, and the group is reconstructed (44_entropy.md R375 step 3a). -/
theorem getIchGroup_front {s t : State} {gs : Nat} {ks : Tri Nat} {rest : List Bool}
    (hvalid : ∀ i, ks.get i < 32 ∧ ichValidAt s (ks.get i) = true)
    (hsource : s.io.source.get .i0 = indexWire ks ++ rest)
    (hich : ichGroup gs ks ((s.withSource .i0 rest).indexed ks) = .ok () t) : getIchGroup gs s = .ok (3 * 5) t := by
  rw [indexWire, List.append_assoc, List.append_assoc] at hsource
  have h0 := getIchIdx_front .i0 (hvalid .i0).1 (hvalid .i0).2 hsource
  have h1 := getIchIdx_front .i1 (hvalid .i1).1
    (s := (s.withSource .i0 (toBits 5 ks.a1 ++ (toBits 5 ks.a2 ++ rest))).setIchIdx .i0 ks.a0) (hvalid .i1).2
    (withSource_source s .i0 _)
  have h2 := getIchIdx_front .i2 (hvalid .i2).1
    (s := ((s.withSource .i0 (toBits 5 ks.a2 ++ rest)).setIchIdx .i0 ks.a0).setIchIdx .i1 ks.a1) (hvalid .i2).2
    (withSource_source s .i0 _)
  have hgroup : ichGroup gs ⟨ks.a0, ks.a1, ks.a2⟩
      ((((s.withSource .i0 rest).setIchIdx .i0 ks.a0).setIchIdx .i1 ks.a1).setIchIdx .i2 ks.a2) = .ok () t := hich
  refine (act_bind_ok h0).trans ?_
  refine (act_bind_ok (h1.trans ?_)).trans ((act_bind_ok (h2.trans ?_)).trans ((act_bind_ok hgroup).trans rfl))
  · cases s.io.source; rfl
  · cases s.io.source; rfl

end Sys2Proof.Machine

namespace Sys2Proof.Machine

/-! ### A whole group -/

/-- The flatness fields leave the line (44_entropy.md R370 step 1). -/
theorem encFlat_cur {s t : State} {gs n : Nat} (h : encFlat gs s = .ok n t) : t.cur = s.cur := by
  by_cases hp : flatPresent s
  · rw [encFlat_present hp] at h
    obtain ⟨f, _, hread, hput⟩ := act_bind_eq_ok.1 h
    obtain ⟨-, rfl⟩ := sense_eq_ok.1 hread
    obtain ⟨k, _, hfields, hdone⟩ := act_bind_eq_ok.1 hput
    cases hdone
    obtain ⟨-, rfl⟩ := putFlatFields_eq_ok hfields
    rfl
  · rw [encFlat_absent hp] at h
    cases h
    rfl

/-- The decoder reads an ICH group whose bits stand at the front of its luma substream (44_entropy.md R375 step 3a). -/
theorem decRead_escape {s t : State} {gs : Nat} {us : Tri UnitPlan} {ks : Tri Nat} {rest : List Bool}
    (hvalid : ∀ i, ks.get i < 32 ∧ ichValidAt s (ks.get i) = true)
    (hsource : s.io.source.get .i0 = escapeWire s.mode.ichSelected us.a0 ks ++ rest)
    (hich : ichGroup gs ks ((s.withSource .i0 rest).indexed ks) = .ok () t) :
    decRead gs us s = .ok ((escapeWire s.mode.ichSelected us.a0 ks).length, .ich) t := by
  rw [escapeWire, List.append_assoc] at hsource
  have hprefix := getUnary_unaryBits (escapeValue_le s.mode.ichSelected us.a0) hsource
  have hgroup := getIchGroup_front (s := s.withSource .i0 (indexWire ks ++ rest)) hvalid (withSource_source s .i0 _)
    (by rwa [withSource_withSource])
  refine (act_bind_ok (act_look _ s)).trans ((act_bind_ok hprefix).trans ?_)
  refine (congrFun (if_pos (isEscape_escapeValue _ _)) _).trans ((act_bind_ok hgroup).trans ?_)
  rw [escapeWire_length]
  rfl

/-- The encoder's choice between the units and the ICH group, and its bits (44_entropy.md R370 steps 2 to 4). -/
def encodeUnits (gs : Nat) : Act (Nat × GroupCode) := do
  let us ← codeUnits gs
  let d ← sense (fun s => ichDecision s gs us)
  encEmit gs us d

/-- The decoder's sizes and its reading of the group (44_entropy.md R375 steps 2 and 3). -/
def decodeUnits (gs : Nat) : Act (Nat × GroupCode) := do
  let us ← sense (fun s => readTri (fun c => unitPlan s c))
  decRead gs us

/-- Where bits stand in luma alone, taking them leaves the rest of all three substreams. -/
theorem set_luma_rest {source rest : Tri (List Bool)} {bs : List Bool}
    (h : ∀ ss, source.get ss = (⟨bs, [], []⟩ : Tri (List Bool)).get ss ++ rest.get ss) : source.set .i0 rest.a0 = rest := by
  refine Tri.ext_get fun ss => ?_
  cases ss with
  | i0 => rfl
  | i1 => exact h .i1
  | i2 => exact h .i2

theorem ichValidAt_groupWritten (s : State) (gs : Nat) (v : Tri (Tri Sample)) (p e : Tri (Tri Word)) (k : Nat) :
    ichValidAt (s.groupWritten gs v p e) k = ichValidAt s k := by
  unfold ichValidAt
  rfl

theorem ichValidAt_asDecoder (s : State) (port : Port) (orig : LineBuf) (io : BitIo) (k : Nat) :
    ichValidAt (s.asDecoder port orig io) k = ichValidAt s k := by
  unfold ichValidAt
  rfl

/-- The writes of an ICH group on the decoder's state are those on top of the encoder's units. -/
theorem groupWritten_ich {s : State} (wf : ∀ c, storeWf (s.cur.get c)) (gs : Nat) (v x : Tri (Tri Sample))
    (p p' w w' : Tri (Tri Word)) (wire : BitIo) (ks : Tri Nat) (port : Port) (orig : LineBuf) (io : BitIo) :
    ((((s.groupWritten gs v p w).withIo wire).indexed ks).groupWritten gs x p' w').asDecoder port orig io =
      ((s.asDecoder port orig io).indexed ks).groupWritten gs x p' w' :=
  groupWritten_overwrites (s := (s.asDecoder port orig io).indexed ks) wf gs v x p p' w w'

/-- The decoder that reads an ICH group ends where the encoder does: its writes are those that the encoder made on top of
the units it coded first (44_entropy.md R370 step 4, R375 step 3a). -/
theorem decodeUnits_ich {s u t : State} {gs : Nat} {us : Tri UnitCode} {e : Tri (Tri Int)} {ks : Tri Nat} {wire : BitIo}
    (wf : ∀ c, storeWf (s.cur.get c)) (hcoded : UnitsCoded s u gs us e) (hdecide : ichDecision u gs us = .ok (some ks))
    (hich : ichGroup gs ks ((u.withIo wire).indexed ks) = .ok () t) (port : Port) (orig : LineBuf) {io : BitIo}
    {rest : Tri (List Bool)}
    (hsource : ∀ ss, io.source.get ss = (⟨escapeWire s.mode.ichSelected us.a0.plan ks, [], []⟩ : Tri (List Bool)).get ss ++
      rest.get ss) :
    decodeUnits gs (s.asDecoder port orig io) =
      .ok ((escapeWire s.mode.ichSelected us.a0.plan ks).length, .ich) (t.asDecoder port orig { io with source := rest }) := by
  obtain ⟨v, p, w, rfl⟩ := hcoded.written
  obtain ⟨x, hx⟩ := ichGroup_looked hich
  have hend := ichGroup_eq hx
  rw [hich] at hend
  obtain rfl := (EStateM.Result.ok.inj hend).2
  have hrest : io.source.set .i0 rest.a0 = rest := set_luma_rest hsource
  have hlooked : Looked (((s.asDecoder port orig io).withSource .i0 rest.a0).indexed ks) gs ks x := hx
  have hluma : (s.asDecoder port orig io).io.source.get .i0 =
      escapeWire (s.asDecoder port orig io).mode.ichSelected us.a0.plan ks ++ rest.a0 := hsource .i0
  have hvalid (i : Pix) : ks.get i < 32 ∧ ichValidAt (s.asDecoder port orig io) (ks.get i) = true := by
    rw [ichValidAt_asDecoder, ← ichValidAt_groupWritten s gs v p w]
    exact ichDecision_valid hdecide i
  have hread := decRead_escape (us := ⟨us.a0.plan, us.a1.plan, us.a2.plan⟩) hvalid hluma (ichGroup_eq hlooked)
  have hplans : readTri (fun c => unitPlan (s.asDecoder port orig io) c) = .ok ⟨us.a0.plan, us.a1.plan, us.a2.plan⟩ :=
    hcoded.plans
  refine (act_bind_ok (act_sense_ok hplans)).trans (hread.trans (congrArg _ ?_))
  rw [asDecoder_withSource, hrest, groupWritten_ich wf]

/-- The decoder reads the units or the ICH group that the encoder sends (44_entropy.md R370, R375). -/
theorem decodeUnits_follows {s : State} (wf : ∀ c, storeWf (s.cur.get c)) (gs : Nat) :
    Follows s (encodeUnits gs) (decodeUnits gs) := by
  intro r t h
  obtain ⟨us, u, hunits, h⟩ := act_bind_eq_ok.1 h
  obtain ⟨d, _, hsense, hemit⟩ := act_bind_eq_ok.1 h
  obtain ⟨hdecide, rfl⟩ := sense_eq_ok.1 hsense
  obtain ⟨e, hcoded⟩ := codeUnits_coded wf hunits
  obtain ⟨v, p, w, hu⟩ := hcoded.written
  have hmode : u.mode = s.mode := by rw [hu]; rfl
  have hio : u.io = s.io := by rw [hu]; rfl
  cases d with
  | none =>
    obtain ⟨rfl, io', rfl, hsink⟩ := encEmit_units hcoded.residuals hemit
    rw [hmode, hio] at hsink
    refine ⟨unitsWire s.mode.ichSelected us e, hsink, fun port orig io rest hsource => ?_⟩
    have hplans : readTri (fun c => unitPlan (s.asDecoder port orig io) c) = .ok ⟨us.a0.plan, us.a1.plan, us.a2.plan⟩ :=
      hcoded.plans
    rw [hmode]
    exact (act_bind_ok (act_sense_ok hplans)).trans (decRead_units hcoded port orig hsource)
  | some ks =>
    obtain ⟨rfl, hich⟩ := encEmit_ich hemit
    rw [hmode] at hich ⊢
    refine ⟨⟨escapeWire s.mode.ichSelected us.a0.plan ks, [], []⟩, fun ss => ?_, fun port orig io rest hsource => ?_⟩
    · obtain ⟨x, hx⟩ := ichGroup_looked hich
      have hend := ichGroup_eq hx
      rw [hich] at hend
      obtain rfl := (EStateM.Result.ok.inj hend).2
      rw [← hio]
      refine (put_sink _ _ ss _).trans ?_
      cases ss <;> rfl
    · exact decodeUnits_ich wf hcoded hdecide hich port orig hsource

theorem encodeGroup_eq_units (gs : Nat) :
    encodeGroup gs = (do let nf ← encFlat gs; let r ← encodeUnits gs; pure (nf, r)) >>= fun x =>
      finishGroup gs (x.1 + x.2.1) x.2.2 := by
  simp [encodeGroup, encodeUnits, codeUnits]

theorem decodeGroup_eq_units (gs : Nat) :
    decodeGroup gs = (do let nf ← decFlat; let r ← decodeUnits gs; pure (nf, r)) >>= fun x =>
      finishGroup gs (x.1 + x.2.1) x.2.2 := by
  simp [decodeGroup, decodeUnits]

/-- The decoder's group follows the encoder's, and the bits sent are those of the group (44_entropy.md R382). -/
theorem decodeGroup_follows {s t : State} {gs : Nat} (wf : ∀ c, storeWf (s.cur.get c)) (h : encodeGroup gs s = .ok () t) :
    ∃ wire : Tri (List Bool), (∀ ss, t.io.sink.get ss = s.io.sink.get ss ++ wire.get ss) ∧
      ∀ port orig io (rest : Tri (List Bool)), (∀ ss, io.source.get ss = wire.get ss ++ rest.get ss) →
        decodeGroup gs (s.asDecoder port orig io) =
          .ok () (t.asDecoder { port with res := t.port.res } orig { io with source := rest }) := by
  have hbody : Follows s (do let nf ← encFlat gs; let r ← encodeUnits gs; pure (nf, r))
      (do let nf ← decFlat; let r ← decodeUnits gs; pure (nf, r)) := by
    refine (decFlat_follows s gs).bind fun nf u hu => ?_
    refine (decodeUnits_follows (fun c => encFlat_cur hu ▸ wf c) gs).bind fun r v _ => ?_
    intro x w hx
    cases hx
    refine ⟨Tri.fill [], fun ss => by simp, fun port orig io rest hsource => ?_⟩
    obtain rfl : io.source = rest := Tri.ext_get fun ss => by simpa using hsource ss
    rfl
  rw [encodeGroup_eq_units] at h
  obtain ⟨x, u, hu, hfinish⟩ := act_bind_eq_ok.1 h
  obtain ⟨wire, hsink, hdec⟩ := hbody x u hu
  obtain ⟨hio, himage⟩ := finishGroup_image hfinish
  refine ⟨wire, fun ss => hio ▸ hsink ss, fun port orig io rest hsource => ?_⟩
  rw [decodeGroup_eq_units]
  exact (act_bind_ok (hdec port orig io rest hsource)).trans (himage port orig _)

/-- An encoder that runs a group without a fault passes the checks before it and codes the group. -/
theorem encodeGroup_of_exec {s t : State} (hruns : s.st.faulted = false) (h : exec .encGroup s = .next t)
    (ht : t.st.faulted = false) :
    s.st.sliceActive = true ∧ s.mode.lineOpen = true ∧ s.mode.groupPending = false ∧ s.hPos < s.width ∧
      encodeGroup s.hPos s = .ok () t := by
  have hrun := (unlessFaulted_running hruns).symm.trans h
  rcases complete_cases (do encoderOnly; groupReady; let gs ← look (fun s => s.hPos); encodeGroup gs : Act Unit) s with
    ⟨u, hu, hnext⟩ | ⟨r, u, hu, hnext⟩
  · obtain rfl : u = t := by simpa using hnext.symm.trans hrun
    obtain ⟨_, _, hdirection, hu⟩ := act_bind_eq_ok.1 hu
    obtain ⟨_, _, hready, hgroup⟩ := act_bind_eq_ok.1 hu
    rw [encoderOnly, act_demand] at hdirection
    split at hdirection
    next direction =>
      cases hdirection
      rw [groupReady, act_demand] at hready
      split at hready
      next ready =>
        cases hready
        simp only [Bool.and_eq_true, Bool.not_eq_true', decide_eq_true_eq] at direction ready
        exact ⟨direction.1, ready.1.1, ready.1.2, ready.2, hgroup⟩
      next => cases hready
    next => cases hdirection
  · obtain rfl : u.enterFault r = t := by simpa using hnext.symm.trans hrun
    rw [enterFault_faulted] at ht
    cases ht

/-- Settles O49: each piece of the decoder reads what the encoder's piece sends, and what is left of both is the same. -/
theorem decoderFollowsEncoder : Obligations.DecoderFollowsEncoder := by
  intro s t sent rest port orig io wf hruns h ht hsink hsource
  obtain ⟨active, lineOpen, noneLeft, inLine, hgroup⟩ := encodeGroup_of_exec hruns h ht
  obtain ⟨wire, hwire, hdec⟩ := decodeGroup_follows wf hgroup
  have hsent : ∀ ss, sent.get ss = wire.get ss := fun ss => List.append_cancel_left ((hsink ss).symm.trans (hwire ss))
  have hrun := hdec port orig io rest fun ss => hsent ss ▸ hsource ss
  have hdirection : decoderOnly (s.asDecoder port orig io) = .ok () (s.asDecoder port orig io) :=
    act_demand_pos (by simp [State.asDecoder, active])
  have hready : groupReady (s.asDecoder port orig io) = .ok () (s.asDecoder port orig io) :=
    act_demand_pos (show (s.mode.lineOpen && !s.mode.groupPending && decide (s.hPos < s.width)) = true by
      simp [lineOpen, noneLeft, inLine])
  refine (unlessFaulted_running (s := s.asDecoder port orig io) hruns).trans (complete_ok ?_)
  exact (act_bind_ok hdirection).trans ((act_bind_ok hready).trans ((act_bind_ok (act_look _ _)).trans hrun))

end Sys2Proof.Machine

namespace Sys2Proof.Machine

/-! ## The bits ahead of a decoder

Any bits that are long enough start with a unary code, with three residuals of a size, with a unit; what the decoder reads
is therefore the wire of some values (44_entropy.md R375). -/

/-- The bits of a value made from n bits are these bits (20_memory.md R104). -/
theorem toBits_ofBits (bs : List Bool) : toBits bs.length (ofBits bs) = bs := by
  induction bs using List.reverseRecOn with
  | nil => rfl
  | append_singleton bs b ih =>
    have hhalf : (2 * ofBits bs + b.toNat) / 2 = ofBits bs := by
      have := b.toNat_le
      omega
    have hlow : ((2 * ofBits bs + b.toNat) % 2 == 1) = b := by cases b <;> simp
    rw [ofBits_append_one, List.length_append, List.length_singleton, toBits, hhalf, hlow, ih]

/-- Bits that are long enough start with a unary code (30_encoding.md R150). -/
theorem unary_ahead {vmax : Nat} {bs : List Bool} (h : vmax ≤ bs.length) :
    ∃ v ≤ vmax, ∃ rest, bs = unaryBits v vmax ++ rest := by
  induction vmax generalizing bs with
  | zero => exact ⟨0, le_rfl, bs, rfl⟩
  | succ n ih =>
    match bs, h with
    | true :: rest, _ => exact ⟨0, Nat.zero_le _, rest, by rw [unaryBits_zero_succ]; rfl⟩
    | false :: bs, h =>
      obtain ⟨v, hv, rest, rfl⟩ := ih (Nat.le_of_succ_le_succ h)
      exact ⟨v + 1, Nat.succ_le_succ hv, rest, by rw [unaryBits_succ_succ]; rfl⟩

/-- A signed value of n bits has a residual size of at most n, and these bits (41_quantizer.md R238, 00_scope.md R11). -/
theorem sext_spec {n v : Nat} (h : v < 2 ^ n) : residualSize (sext n v) ≤ n ∧ (sext n v % 2 ^ n).toNat = v := by
  cases n with
  | zero =>
    obtain rfl : v = 0 := by omega
    exact ⟨le_rfl, rfl⟩
  | succ n =>
    have hdouble : (2 : Int) ^ (n + 1) = 2 * 2 ^ n := pow_succ' 2 n
    have hcast : (v : Int) < 2 ^ (n + 1) := by exact_mod_cast h
    rw [residualSize_le_iff, sext_succ]
    split_ifs with hlow
    · refine ⟨by omega, ?_⟩
      rw [Int.emod_eq_of_lt (by omega) hcast, Int.toNat_natCast]
    · refine ⟨by omega, ?_⟩
      rw [Int.sub_emod_right, Int.emod_eq_of_lt (by omega) hcast, Int.toNat_natCast]

theorem ofBits_lt (bs : List Bool) : ofBits bs < 2 ^ bs.length := by
  rw [← toBits_ofBits bs, ofBits_toBits, toBits_length]
  exact Nat.mod_lt _ (by positivity)

/-- Bits that are long enough start with a residual of n bits. -/
theorem residual_ahead {n : Nat} {bs : List Bool} (h : n ≤ bs.length) :
    ∃ e : Int, residualSize e ≤ n ∧ bs = toBits n (e % 2 ^ n).toNat ++ bs.drop n := by
  have hlen : (bs.take n).length = n := by simp [h]
  obtain ⟨hsize, hvalue⟩ := sext_spec (n := n) (v := ofBits (bs.take n))
    (lt_of_lt_of_eq (ofBits_lt _) (congrArg _ hlen))
  refine ⟨_, hsize, ?_⟩
  have hbits := toBits_ofBits (bs.take n)
  rw [hlen] at hbits
  rw [hvalue, hbits, List.take_append_drop]

/-- Bits that are long enough start with three residuals of n bits (30_encoding.md R154). -/
theorem residuals_ahead {n : Nat} {bs : List Bool} (h : 3 * n ≤ bs.length) :
    ∃ (e : Tri Int) (rest : List Bool), (∀ i, residualSize (e.get i) ≤ n) ∧ bs = residualWire n e ++ rest := by
  obtain ⟨e0, h0, hbs0⟩ := residual_ahead (n := n) (bs := bs) (by omega)
  obtain ⟨e1, h1, hbs1⟩ := residual_ahead (n := n) (bs := bs.drop n) (by rw [List.length_drop]; omega)
  obtain ⟨e2, h2, hbs2⟩ := residual_ahead (n := n) (bs := (bs.drop n).drop n) (by simp only [List.length_drop]; omega)
  refine ⟨⟨e0, e1, e2⟩, ((bs.drop n).drop n).drop n, fun i => by cases i <;> assumption, ?_⟩
  rw [residualWire, List.append_assoc, List.append_assoc, ← hbs2, ← hbs1]
  exact hbs0

section Values

variable {c : Cpnt} {l : Bool} {u : UnitPlan} {v : Nat}

/-- A value that is no escape denotes a size of the unit's range, whose value it is (30_encoding.md R152, R153). -/
theorem sizeOfPrefix_range (hp : u.p < u.m) (hv : v ≤ prefixMax c u) (hunit : c = .i0 → v ≠ escapeValue l u) :
    u.p ≤ sizeOfPrefix c l u v ∧ sizeOfPrefix c l u v ≤ u.m ∧ prefixValue c l u (sizeOfPrefix c l u v) = v := by
  by_cases hc : c = .i0
  · subst hc
    have hne := hunit rfl
    rw [prefixMax_luma] at hv
    cases l <;> simp only [sizeOfPrefix, prefixValue_luma, escapeValue, prefixMax_luma, if_true, Bool.false_eq_true, if_false,
      Bool.toNat_true, Bool.toNat_false] at hne ⊢ <;> omega
  · rw [prefixMax_chroma hc] at hv
    rw [prefixValue_chroma hc, sizeOfPrefix, if_neg hc]
    omega

/-- Behind a value that is no escape, bits that are long enough hold the residuals of a unit (44_entropy.md R375 step 3b). -/
theorem unit_ahead {bs rest : List Bool} (hp : u.p < u.m) (hv : v ≤ prefixMax c u)
    (hunit : c = .i0 → v ≠ escapeValue l u) (hbs : bs = unaryBits v (prefixMax c u) ++ rest) (hlen : 3 * u.m ≤ rest.length) :
    ∃ (n : Nat) (e : Tri Int) (rest' : List Bool), u.p ≤ n ∧ n ≤ u.m ∧ (∀ i, residualSize (e.get i) ≤ n) ∧
      bs = codeWire c l ⟨u, n == u.m, n⟩ e ++ rest' := by
  obtain ⟨low, high, hvalue⟩ := sizeOfPrefix_range hp hv hunit
  obtain ⟨e, rest', fits, hrest⟩ := residuals_ahead (n := sizeOfPrefix c l u v) (bs := rest) (by omega)
  refine ⟨_, e, rest', low, high, fits, ?_⟩
  rw [codeWire, hvalue, List.append_assoc, ← hrest]
  exact hbs

/-- A chroma substream that is long enough starts with a unit. -/
theorem chroma_ahead {bs : List Bool} (hc : c ≠ .i0) (hp : u.p < u.m) (hlen : prefixMax c u + 3 * u.m ≤ bs.length) :
    ∃ (n : Nat) (e : Tri Int) (rest : List Bool), u.p ≤ n ∧ n ≤ u.m ∧ (∀ i, residualSize (e.get i) ≤ n) ∧
      bs = codeWire c l ⟨u, n == u.m, n⟩ e ++ rest := by
  obtain ⟨v, hv, rest, rfl⟩ := unary_ahead (vmax := prefixMax c u) (bs := bs) (by omega)
  refine unit_ahead hp hv (fun h => absurd h hc) rfl ?_
  have hcode := unaryBits_length v _ hv
  rw [List.length_append] at hlen
  unfold unaryLen at hcode
  split at hcode <;> omega

end Values

/-! ### The flatness fields -/

/-- Present fields are those of the record ahead, and behind them stand the luma bits of the group (30_encoding.md R151). -/
theorem source_flat {s : State} (hp : flatPresent s) (hlen : 4 ≤ (s.io.source.get .i0).length) :
    s.io.source.get .i0 = recordWire (flatRecordAhead s) ++ lumaBits s := by
  unfold lumaBits flatRecordAhead
  rw [if_pos hp]
  generalize s.io.source.get .i0 = bs at hlen
  match bs, hlen with
  | false :: bs, _ => rfl
  | true :: hi :: lo :: ty :: bs, _ => cases hi <;> cases lo <;> simp [recordWire, toBits]

theorem flatRecordAhead_invalid {s : State} (h : (flatRecordAhead s).valid = false) : flatRecordAhead s = FlatRec.zero := by
  unfold flatRecordAhead at h ⊢
  split
  · rename_i hbits
    rw [hbits] at h
    cases h
  · rfl

/-- The flatness record after the fields of the next group: the one ahead when fields are present, else the empty one at the
start of a supergroup (44_entropy.md R375 step 1). -/
def State.flatRead (s : State) : FlatRegs :=
  if flatPresent s then { s.flat with flatNext := flatRecordAhead s } else s.flatSkipped.flat

/-- The bits of the flatness fields of the next group (30_encoding.md R151). -/
def flatWireAhead (s : State) : List Bool := if flatPresent s then recordWire (flatRecordAhead s) else []

theorem source_flatWireAhead {s : State} (hlen : 4 ≤ (s.io.source.get .i0).length) :
    s.io.source.get .i0 = flatWireAhead s ++ lumaBits s := by
  by_cases hp : flatPresent s
  · rw [flatWireAhead, if_pos hp]
    exact source_flat hp hlen
  · rw [flatWireAhead, if_neg hp, lumaBits, if_neg hp]
    rfl

theorem recordWire_length (f : FlatRec) : (recordWire f).length = if f.valid = true then 4 else 1 := by
  unfold recordWire
  split <;> simp

/-- The flatness fields are read (44_entropy.md R375 step 1). -/
theorem decFlat_eq {s : State} (hlen : 4 ≤ (s.io.source.get .i0).length) :
    decFlat s = .ok (flatWireAhead s).length ({ s with flat := s.flatRead }.withSource .i0 (lumaBits s)) := by
  by_cases hp : flatPresent s
  · have hfields := getFlatFields_record flatRecordAhead_invalid (source_flat hp hlen)
    rw [decFlat_present hp, act_bind_ok hfields, flatWireAhead, if_pos hp, recordWire_length, State.flatRead, if_pos hp]
    rfl
  · rw [decFlat_absent hp, flatWireAhead, if_neg hp, State.flatRead, if_neg hp, lumaBits, if_neg hp]
    exact congrArg _ (withSource_self s.flatSkipped .i0).symm

end Sys2Proof.Machine

namespace Sys2Proof.Machine

/-! ## The units of a decoder that is ready -/

/-! ### Reads of a line that was written on -/

/-- t reads component c as s does, of the line below position n (20_memory.md R102). -/
structure ReadsAs (s t : State) (c : Cpnt) (n : Int) : Prop where
  cur : ∀ j, j < n → curRead t c j = curRead s c j
  prev : ∀ j, prevRead t c j = prevRead s c j
  vPos : t.vPos = s.vPos
  depth : t.depth c = s.depth c
  classes : t.bp.ptypeCur = s.bp.ptypeCur
  vectors : t.bp.bpVecCur = s.bp.bpVecCur

section ReadsAs

variable {s t u : State} {c : Cpnt} {n : Int} {gs : Nat}

theorem ReadsAs.refl (s : State) (c : Cpnt) (n : Int) : ReadsAs s s c n :=
  ⟨fun _ _ => rfl, fun _ => rfl, rfl, rfl, rfl, rfl⟩

theorem ReadsAs.trans (h : ReadsAs s t c n) (k : ReadsAs t u c n) : ReadsAs s u c n where
  cur j hj := (k.cur j hj).trans (h.cur j hj)
  prev j := (k.prev j).trans (h.prev j)
  vPos := k.vPos.trans h.vPos
  depth := k.depth.trans h.depth
  classes := k.classes.trans h.classes
  vectors := k.vectors.trans h.vectors

theorem ReadsAs.mono {m : Int} (h : ReadsAs s t c n) (hm : m ≤ n) : ReadsAs s t c m :=
  { h with cur := fun j hj => h.cur j (hj.trans_le hm) }

theorem ReadsAs.mapPred (h : ReadsAs s t c n) (hn : (gs : Int) ≤ n) (i : Pix) (q : Nat) (r0 r1 : Int) :
    mapPred t c gs i q r0 r1 = mapPred s c gs i q r0 r1 := by
  simp only [Machine.mapPred, mapBlend, h.prev, h.cur _ (show (gs : Int) - 1 < n by omega)]

/-- The prediction of a pixel reads the samples left of it (44_entropy.md R363). -/
theorem ReadsAs.normPred {i : Pix} (h : ReadsAs s t c (gs + i.toNat))
    (vector : s.bp.ptypeCur.getD (gs / 3) .left = .bp → 3 ≤ (s.bp.bpVecCur.getD (gs / 3) 0).toNat) (q : Nat) (r0 r1 : Int) :
    normPred t c gs i q r0 r1 = normPred s c gs i q r0 r1 := by
  have hmap := h.mapPred (gs := gs) (by omega) i q r0 r1
  unfold Machine.normPred leftPred bpPred
  rw [h.vPos, h.classes, h.vectors, hmap]
  split
  · exact h.cur _ (by omega)
  · split
    · have := vector ‹_›
      exact h.cur _ (by omega)
    · rfl

theorem ReadsAs.midpointOf (h : ReadsAs s t c n) (hn : (gs : Int) ≤ n) (q : Nat) :
    midpointOf t c gs q = midpointOf s c gs q := by
  rw [Machine.midpointOf, Machine.midpointOf, h.cur _ (by omega), h.depth]

end ReadsAs

/-- A component's samples of a unit are no other component's. -/
theorem written_readsAs_other (s : State) {c c' : Cpnt} (h : c' ≠ c) (gs : Nat) (v : Tri Sample) (p e : Tri Word) (n : Int) :
    ReadsAs s (s.written c gs v p e) c' n where
  cur j _ := by
    rcases Int.lt_or_le j 0 with hneg | hpos
    · simp only [curRead, if_pos hneg]
      rfl
    · rw [curRead_inside c' hpos, curRead_inside c' hpos, readCell, readCell, State.written, Tri.get_set, if_neg h]
  prev _ := rfl
  vPos := rfl
  depth := rfl
  classes := rfl
  vectors := rfl

theorem written_readsAs (s : State) (c : Cpnt) (gs : Nat) (v : Tri Sample) (p e : Tri Word) (c' : Cpnt) :
    ReadsAs s (s.written c gs v p e) c' gs where
  cur _ hj := curRead_written s c v p e c' hj
  prev _ := rfl
  vPos := rfl
  depth := rfl
  classes := rfl
  vectors := rfl

/-- Writing a pixel leaves the samples left of it. -/
theorem pixelWritten_readsAs (s : State) (c : Cpnt) (gs : Nat) (i : Pix) (q : Nat) (p e : Int) {n : Int}
    (hn : n ≤ (gs : Int) + i.toNat) : ReadsAs s (s.pixelWritten c gs i q p e) c n where
  cur j hj := by
    rcases Int.lt_or_le j 0 with hneg | hpos
    · simp only [curRead, if_pos hneg]
      rfl
    · have hne : j.toNat ≠ gs + i.toNat := by omega
      have hcell : storeRead ((s.pixelWritten c gs i q p e).cur.get c) j.toNat = storeRead (s.cur.get c) j.toNat := by
        simp only [State.pixelWritten, State.setCur, State.withCur, State.setScratch, State.withScratch, writeCell,
          Tri.get_set_self]
        exact storeRead_storeWrite_ne _ _ hne
      rw [curRead_inside c hpos, curRead_inside c hpos, readCell, readCell, hcell]
  prev _ := rfl
  vPos := rfl
  depth := rfl
  classes := rfl
  vectors := rfl

/-! ### The predictions -/

/-- The first pixel's prediction takes no dequantized residual, the second's takes one (40_prediction.md R185). -/
theorem normPred_residuals (s : State) (c : Cpnt) (gs q : Nat) (r0 r1 : Int) :
    normPred s c gs .i0 q r0 r1 = normPred s c gs .i0 q 0 0 ∧ normPred s c gs .i1 q r0 r1 = normPred s c gs .i1 q r0 0 :=
  ⟨rfl, rfl⟩

/-- The predictions of a unit are those of the line that holds it (44_entropy.md R363). -/
theorem Predicted.final {s : State} {c : Cpnt} {gs q : Nat} {e p : Tri Int}
    (vector : s.bp.ptypeCur.getD (gs / 3) .left = .bp → 3 ≤ (s.bp.bpVecCur.getD (gs / 3) 0).toNat)
    (h : Predicted s c gs q e p) (i : Pix) :
    normPred (s.unitWritten c gs q p e) c gs i q (dequantize e.a0 q) (dequantize e.a1 q) = .ok (p.get i) := by
  rw [← pixelsWritten_eq]
  have w0 := pixelWritten_readsAs s c gs .i0 q p.a0 e.a0 (n := gs) (by simp)
  have w1 := pixelWritten_readsAs (s.pixelWritten c gs .i0 q p.a0 e.a0) c gs .i1 q p.a1 e.a1 (n := gs + 1) le_rfl
  have w2 := pixelWritten_readsAs ((s.pixelWritten c gs .i0 q p.a0 e.a0).pixelWritten c gs .i1 q p.a1 e.a1) c gs .i2 q p.a2
    e.a2 (n := gs + 2) le_rfl
  cases i with
  | i0 =>
    have hread := w0.trans ((w1.trans (w2.mono (by omega))).mono (by omega))
    rw [(normPred_residuals _ c gs q _ _).1, ReadsAs.normPred (i := .i0) (by simpa using hread) vector]
    exact h.first
  | i1 =>
    rw [(normPred_residuals _ c gs q _ _).2, ReadsAs.normPred (i := .i1) (w1.trans (w2.mono (by omega))) vector]
    exact h.second
  | i2 =>
    rw [ReadsAs.normPred (i := .i2) w2 vector]
    exact h.third

/-- A prediction is what its class says of the line (40_prediction.md R181, R187, R188). -/
theorem classPrediction_of_normPred {s : State} {c : Cpnt} {gs q : Nat} {i : Pix} {r0 r1 p : Int}
    (h : normPred s c gs i q r0 r1 = .ok p) : classPrediction s c gs q i r0 r1 = p := by
  unfold normPred leftPred bpPred at h
  unfold classPrediction sampleAt
  split at h
  · rename_i hv
    rw [if_pos hv, ← Int.natCast_add, h]
    rfl
  · rename_i hv
    rw [if_neg hv]
    split at h
    · rename_i hclass
      rw [if_pos hclass, ← Int.natCast_add, h]
      rfl
    · rename_i hclass
      rw [if_neg hclass, h]
      rfl

/-! ### The range of a prediction -/

/-- A sample as a value of 16 bits (10_state.md R49). -/
def IsSample (x : Int) : Prop := 0 ≤ x ∧ x ≤ 65535

theorem readCell_isSample {sp : UninitSpace} {b : LineBuf} {c : Cpnt} {i : Nat} {x : Int} (h : readCell sp b c i = .ok x) :
    IsSample x := by
  obtain ⟨v, -, rfl⟩ := readCell_eq_ok h
  have := v.isLt
  unfold IsSample
  omega

theorem prevRead_isSample {s : State} {c : Cpnt} {i x : Int} (h : prevRead s c i = .ok x) : IsSample x := by
  unfold prevRead at h
  split at h
  · cases h
  · exact readCell_isSample h

theorem pow_depth_le (s : State) (c : Cpnt) : (2 : Int) ^ (s.depth c - 1) ≤ 2 ^ 15 := by
  have := depth_le s c
  exact pow_le_pow_right₀ (by decide) (by omega)

theorem curRead_isSample {s : State} {c : Cpnt} {i x : Int} (h : curRead s c i = .ok x) : IsSample x := by
  unfold curRead at h
  split at h
  · unfold leftPad at h
    split at h
    · cases h
      have := pow_depth_le s c
      exact ⟨by positivity, by omega⟩
    · exact prevRead_isSample h
  · exact readCell_isSample h

/-- The MAP prediction is held between samples and blends of samples (40_prediction.md R183, R185). -/
theorem mapPred_isSample {s : State} {c : Cpnt} {gs : Int} {q : Nat} {i : Pix} {r0 r1 p : Int}
    (h : mapPred s c gs i q r0 r1 = .ok p) : IsSample p := by
  obtain ⟨m, hm, hp⟩ := rd_bind_eq_ok.1 h
  obtain ⟨a, ha, hm⟩ := rd_bind_eq_ok.1 hm
  obtain ⟨cc, -, hm⟩ := rd_bind_eq_ok.1 hm
  obtain ⟨c1, hc1, hm⟩ := rd_bind_eq_ok.1 hm
  obtain ⟨b, hb, hm⟩ := rd_bind_eq_ok.1 hm
  obtain ⟨d, hd, hm⟩ := rd_bind_eq_ok.1 hm
  obtain ⟨x, hx, hm⟩ := rd_bind_eq_ok.1 hm
  obtain ⟨y, hy, hm⟩ := rd_bind_eq_ok.1 hm
  cases hm
  cases hp
  have hhalf : (0 : Int) ≤ maxQuantErr q := Int.natCast_nonneg _
  have hB := prevRead_isSample hb
  have hD := prevRead_isSample hd
  have hE := prevRead_isSample hx
  exact predict_range (curRead_isSample ha) (blend_range hhalf (prevRead_isSample hc1) hB hD) (blend_range hhalf hB hD hE)
    (blend_range hhalf hD hE (prevRead_isSample hy)) i r0 r1

/-- Whatever the residuals, the prediction of a pixel is a sample (40_prediction.md R185, R187, R188). -/
theorem normPred_isSample {s : State} {c : Cpnt} {gs q : Nat} {i : Pix} {r0 r1 p : Int}
    (h : normPred s c gs i q r0 r1 = .ok p) : IsSample p := by
  unfold normPred at h
  split at h
  · exact curRead_isSample h
  · split at h
    · exact curRead_isSample h
    · exact mapPred_isSample h

end Sys2Proof.Machine

namespace Sys2Proof.Machine

/-! ### The reconstruction answers -/

theorem coded_written (s : State) (c : Cpnt) (gs : Nat) (v : Tri Sample) (p e : Tri Word) :
    Coded s (s.written c gs v p e) where
  frame := ⟨_, _, rfl⟩
  written c' n hw j hj := by
    rcases pixel_or_elsewhere gs j with ⟨i, rfl⟩ | helse
    · simp only [State.written, Tri.get_set]
      split_ifs with hc
      · rw [storeRead_writeThree_pixel]
        rfl
      · exact hw _ hj
    · rw [storeRead_written_elsewhere s c v p e c' helse]
      exact hw j hj

theorem written_pixelWritten (s : State) (c : Cpnt) (gs : Nat) (i : Pix) (q : Nat) (p e : Int) {c' : Cpnt} {j : Nat}
    (h : (storeRead (s.cur.get c') j).isSome = true ∨ c' = c ∧ j = gs + i.toNat) :
    (storeRead ((s.pixelWritten c gs i q p e).cur.get c') j).isSome = true := by
  simp only [State.pixelWritten, State.setCur, State.withCur, State.setScratch, State.withScratch, writeCell, Tri.get_set]
  split_ifs with hc
  · rw [storeRead_storeWrite]
    split_ifs with hj
    · rfl
    · rcases h with h | ⟨-, h⟩
      · exact hc ▸ h
      · exact absurd h hj
  · exact h.resolve_right fun hn => hc hn.1

theorem coded_pixelWritten (s : State) (c : Cpnt) (gs : Nat) (i : Pix) (q : Nat) (p e : Int) :
    Coded s (s.pixelWritten c gs i q p e) where
  frame := ⟨_, _, rfl⟩
  written _ _ hw j hj := written_pixelWritten s c gs i q p e (.inl (hw j hj))

section Ready

variable {s : State} (h : GroupReady s)

include h

/-- A pixel of a normal unit is predicted, and the line is then written one pixel further (44_entropy.md R375 step 3b). -/
theorem normPred_step {c : Cpnt} {i : Pix} (hw : Written s c (s.hPos + i.toNat)) (q : Nat) (r0 r1 e : Int) :
    ∃ p, normPred s c s.hPos i q r0 r1 = .ok p ∧ GroupReady (s.pixelWritten c s.hPos i q p e) ∧
      Written (s.pixelWritten c s.hPos i q p e) c (s.hPos + i.toNat + 1) := by
  obtain ⟨p, hp, -⟩ := h.normPred_reads hw q r0 r1
  refine ⟨p, hp, (coded_pixelWritten s c s.hPos i q p e).groupReady h, fun j hj => ?_⟩
  refine written_pixelWritten s c s.hPos i q p e ?_
  rcases Nat.lt_or_eq_of_le (Nat.le_of_lt_succ hj) with hj | hj
  · exact .inl (hw j hj)
  · exact .inr ⟨rfl, hj⟩

/-- The pixels of a normal unit are predicted in order (44_entropy.md R363). -/
theorem predicted_ready (c : Cpnt) (q : Nat) (e : Tri Int) : ∃ p, Predicted s c s.hPos q e p := by
  obtain ⟨p0, h0, ready0, w0⟩ := normPred_step h (i := .i0) (h.left c) q 0 0 e.a0
  obtain ⟨p1, h1, ready1, w1⟩ := normPred_step ready0 (i := .i1) w0 q (dequantize e.a0 q) 0 e.a1
  obtain ⟨p2, h2, -, -⟩ := normPred_step ready1 (i := .i2) w1 q (dequantize e.a0 q) (dequantize e.a1 q) e.a2
  exact ⟨⟨p0, p1, p2⟩, h0, h1, h2⟩

end Ready

/-- The predictions p of a unit that leads from s to t: the midpoint, or what the unit's class says of the line with the
unit (40_prediction.md R181, R189, R192). -/
structure UnitPredicted (s t : State) (c : Cpnt) (gs : Nat) (u : UnitCode) (e p : Tri Int) : Prop where
  mid : u.mpp = true → ∀ i : Pix, midpointOf s c gs u.plan.q = .ok (p.get i)
  normal : u.mpp = false → ∀ i : Pix,
    normPred t c gs i u.plan.q (dequantize e.a0 u.plan.q) (dequantize e.a1 u.plan.q) = .ok (p.get i)

/-- A unit is reconstructed on a ready state (44_entropy.md R375 step 3b). -/
theorem decRecon_ready {s : State} (h : GroupReady s) (c : Cpnt) (u : UnitCode) (e : Tri Int) :
    ∃ p, decRecon c s.hPos u e s = .ok () (s.unitWritten c s.hPos u.plan.q p e) ∧
      UnitPredicted s (s.unitWritten c s.hPos u.plan.q p e) c s.hPos u e p := by
  cases hmpp : u.mpp with
  | true =>
    obtain ⟨mid, hmid, -⟩ := h.midpointOf_reads c u.plan.q
    refine ⟨⟨mid, mid, mid⟩, decRecon_mpp hmpp hmid e, fun _ i => ?_, fun hno => ?_⟩
    · cases i <;> exact hmid
    · rw [hmpp] at hno
      cases hno
  | false =>
    obtain ⟨p, hp⟩ := predicted_ready h c u.plan.q e
    refine ⟨p, ?_, fun hno => ?_, fun _ => hp.final h.vector⟩
    · rw [decRecon_normal hmpp]
      exact normalRecon_eq_ok.2 ⟨p, hp, rfl⟩
    · rw [hmpp] at hno
      cases hno

/-- The predictions of a unit are those of lines that read alike. -/
theorem UnitPredicted.of_readsAs {s s' t t' : State} {c : Cpnt} {gs : Nat} {u : UnitCode} {e p : Tri Int}
    (h : UnitPredicted s t c gs u e p) (hs : ReadsAs s' s c gs) (ht : ReadsAs t t' c (gs + 3))
    (vector : t.bp.ptypeCur.getD (gs / 3) .left = .bp → 3 ≤ (t.bp.bpVecCur.getD (gs / 3) 0).toNat) :
    UnitPredicted s' t' c gs u e p where
  mid hmpp i := (hs.midpointOf le_rfl _).symm.trans (h.mid hmpp i)
  normal hmpp i := by
    have hi := i.toNat_lt
    exact ((ht.mono (by omega)).normPred vector _ _ _).trans (h.normal hmpp i)

/-! ### The three units -/

/-- The sizes of a component's unit in the next group (30_encoding.md R152, 44_entropy.md R361). -/
def planOf (s : State) (c : Cpnt) : UnitPlan := ⟨unitLevel s c, unitWidth s c, unitFloor s c⟩

/-- A unit of n bits in the next group. -/
def unitOf (s : State) (c : Cpnt) (n : Nat) : UnitCode := ⟨planOf s c, n == unitWidth s c, n⟩

/-- The samples that predictions and residuals give (41_quantizer.md R240). -/
def groupSamples (s : State) (p e : Tri (Tri Int)) : Tri (Tri Sample) :=
  triOf fun c => unitSamples s c (unitLevel s c) (p.get c) (e.get c)

/-- Values as the scratch registers hold them (10_state.md R48). -/
def groupWords (p : Tri (Tri Int)) : Tri (Tri Word) := triMap (triMap (BitVec.ofInt 32)) p

/-- The state with the units of the next group reconstructed. -/
def State.unitsWritten (s : State) (p e : Tri (Tri Int)) : State :=
  s.groupWritten s.hPos (groupSamples s p e) (groupWords p) (groupWords e)

/-- The units of a group of given sizes and residuals are reconstructed on a ready state (44_entropy.md R375 step 3b). -/
theorem units_ready {s : State} (h : GroupReady s) {n : Tri Nat} {e : Tri (Tri Int)}
    (low : ∀ c, unitFloor s c ≤ n.get c) (high : ∀ c, n.get c ≤ unitWidth s c)
    (fits : ∀ c i, residualSize ((e.get c).get i) ≤ n.get c) :
    ∃ p, UnitsCoded s (s.unitsWritten p e) s.hPos (triOf fun c => unitOf s c (n.get c)) e ∧
      ∀ c, UnitPredicted s (s.unitsWritten p e) c s.hPos (unitOf s c (n.get c)) (e.get c) (p.get c) := by
  have coded {t u : State} {c : Cpnt} (hplan : unitPlan t c = unitPlan s c)
      (hrecon : decRecon c s.hPos (unitOf s c (n.get c)) (e.get c) t = .ok () u) :
      UnitCoded t u c s.hPos (unitOf s c (n.get c)) (e.get c) :=
    ⟨hplan.trans (h.unitPlan_eq c), low c, high c, rfl, fits c, hrecon⟩
  obtain ⟨p0, hr0, hp0⟩ := decRecon_ready h .i0 (unitOf s .i0 (n.get .i0)) (e.get .i0)
  have ready1 := (coded_written s .i0 s.hPos (unitSamples s .i0 (unitLevel s .i0) p0 e.a0)
    (triMap (BitVec.ofInt 32) p0) (triMap (BitVec.ofInt 32) e.a0)).groupReady h
  obtain ⟨p1, hr1, hp1⟩ := decRecon_ready ready1 .i1 (unitOf s .i1 (n.get .i1)) (e.get .i1)
  have ready2 := (coded_written _ .i1 s.hPos (unitSamples s .i1 (unitLevel s .i1) p1 e.a1)
    (triMap (BitVec.ofInt 32) p1) (triMap (BitVec.ofInt 32) e.a1)).groupReady ready1
  obtain ⟨p2, hr2, hp2⟩ := decRecon_ready ready2 .i2 (unitOf s .i2 (n.get .i2)) (e.get .i2)
  refine ⟨⟨p0, p1, p2⟩, ⟨_, _, coded rfl hr0, coded rfl hr1, coded rfl hr2⟩, fun c => ?_⟩
  have before (t : State) (c c' : Cpnt) (q : Nat) (p e : Tri Int) : ReadsAs t (t.unitWritten c s.hPos q p e) c' s.hPos :=
    written_readsAs t c s.hPos _ _ _ c'
  have after {c c' : Cpnt} (t : State) (hc : c' ≠ c) (q : Nat) (p e : Tri Int) :
      ReadsAs t (t.unitWritten c s.hPos q p e) c' (s.hPos + 3) := written_readsAs_other t hc s.hPos _ _ _ _
  cases c with
  | i0 => exact hp0.of_readsAs (.refl ..) ((after (c := .i1) _ (by decide) ..).trans (after (c := .i2) _ (by decide) ..)) h.vector
  | i1 => exact hp1.of_readsAs (before ..) (after (c := .i2) _ (by decide) ..) h.vector
  | i2 => exact hp2.of_readsAs ((before ..).trans (before ..)) (.refl ..) h.vector

end Sys2Proof.Machine

namespace Sys2Proof.Machine

/-! ## The decoder's group up to its bookkeeping -/

/-- Valid entries name samples on a ready state (42_ich.md R262). -/
theorem looked_ready {s : State} (h : GroupReady s) {ks : Tri Nat} (hks : ∀ i, ichValidAt s (ks.get i) = true) :
    ∃ x, Looked s s.hPos ks x := by
  have hsample (i : Pix) (c : Cpnt) : ∃ v : Sample, historyLookup s (ks.get i) c s.hPos = .ok (v.toNat : Int) := by
    obtain ⟨x, hx, -⟩ := h.historyLookup_reads (hks i) c s.hPos
    obtain ⟨v, rfl⟩ := historyLookup_sample hx
    exact ⟨v, hx⟩
  choose f hf using hsample
  exact ⟨triOf fun c => triOf fun i => f i c, fun i c => by simpa using hf i c⟩

/-! ### The sizes of the bits -/

/-- A legal component has 13 bits at most, luma 12 (10_state.md R32, 00_scope.md R16). -/
theorem LegalConfig.depth_le {s : State} (h : LegalConfig s) (c : Cpnt) : s.depth c ≤ if c = .i0 then 12 else 13 := by
  have hbpc := h.bitsPerComponent
  have hchroma := Bool.toNat_le (s.isChroma c)
  unfold State.depth
  split_ifs with hc
  · have hluma : s.isChroma c = false := by
      rw [hc]
      exact Bool.eq_false_iff.2 fun hn => ((isChroma_iff s .i0).1 hn).2 rfl
    rw [hluma]
    simp only [Bool.toNat_false]
    omega
  · omega

theorem unitWidth_le {s : State} (h : LegalConfig s) (c : Cpnt) : unitWidth s c ≤ if c = .i0 then 12 else 13 :=
  (Nat.sub_le _ _).trans (h.depth_le c)

theorem unitFloor_lt {s : State} (h : GroupReady s) (c : Cpnt) : unitFloor s c < unitWidth s c :=
  (unitPlan_range (h.unitPlan_eq c)).1

/-- The next group is an ICH group exactly when its luma value is the escape's (30_encoding.md R153). -/
theorem escapeAhead_iff {s : State} {v : Nat} {rest : List Bool} (hv : v ≤ lumaMax s)
    (hbits : lumaBits s = unaryBits v (lumaMax s) ++ rest) :
    escapeAhead s ↔ v = escapeValue s.mode.ichSelected (planOf s .i0) := by
  have hmax : prefixMax .i0 (planOf s .i0) = lumaMax s := rfl
  unfold escapeAhead escapeValue
  rw [hbits, hmax]
  split_ifs
  · cases v with
    | zero =>
      have hpos : 0 < lumaMax s := Nat.succ_pos _
      simp [unaryBits, hpos]
    | succ v => simp [unaryBits, List.replicate_succ]
  · rcases Nat.lt_or_eq_of_le hv with hlt | rfl
    · refine iff_of_false (fun htake => ?_) hlt.ne
      have hbit := congrArg (fun bs => bs[v]?) htake
      simp [unaryBits_of_lt hlt, hlt] at hbit
    · simp [unaryBits_self]

/-! ### The state that the group leaves -/

/-- The state after the group's bits are read: its samples, its scratch registers, the flatness record, the indices and what
is left of the source (44_entropy.md R375 steps 1 to 3). -/
def State.groupRead (s : State) (v : Tri (Tri Sample)) (p e : Tri (Tri Word)) (idx : Tri (BitVec 5))
    (rest : Tri (List Bool)) : State :=
  { s.groupWritten s.hPos v p e with
    flat := s.flatRead, mode := { s.mode with ichIdx := idx }, io := { s.io with source := rest } }

theorem asDecoder_self {s : State} (h : s.st.isEncoder = false) : s.asDecoder s.port s.orig s.io = s := by
  rw [State.asDecoder, ← h]

/-- The state after the flatness fields. -/
def State.afterFlat (s : State) : State := { s with flat := s.flatRead }.withSource .i0 (lumaBits s)

theorem afterFlat_readsAs (s t : State) (ht : t = s.afterFlat) (c : Cpnt) (n : Int) : ReadsAs s t c n := by
  subst ht
  exact ⟨fun _ _ => rfl, fun _ => rfl, rfl, rfl, rfl, rfl⟩

/-- What stands ahead of a decoder whose next group is three units: their sizes and residuals, and the rest. -/
structure UnitsAhead (s : State) (n : Tri Nat) (e : Tri (Tri Int)) (rest : Tri (List Bool)) : Prop where
  low : ∀ c, unitFloor s c ≤ n.get c
  high : ∀ c, n.get c ≤ unitWidth s c
  fits : ∀ c i, residualSize ((e.get c).get i) ≤ n.get c
  source : ∀ ss, s.afterFlat.io.source.get ss =
    (unitsWire s.mode.ichSelected (triOf fun c => unitOf s c (n.get c)) e).get ss ++ rest.get ss

/-- What stands ahead of a decoder whose next group is an ICH group: its indices, and the rest. -/
structure IndicesAhead (s : State) (ks : Tri Nat) (rest : Tri (List Bool)) : Prop where
  ahead : ∀ i : Pix, ks.get i = ichIndexAhead s i
  small : ∀ i, ks.get i < 32
  source : ∀ ss, s.afterFlat.io.source.get ss =
    (⟨escapeWire s.mode.ichSelected (planOf s .i0) ks, [], []⟩ : Tri (List Bool)).get ss ++ rest.get ss

theorem unaryBits_length_le {v vmax : Nat} (h : v ≤ vmax) : (unaryBits v vmax).length ≤ vmax := by
  rw [unaryBits_length v vmax h]
  unfold unaryLen
  split <;> omega

/-- Without an escape, bits that are long enough hold three units (30_encoding.md R151, R152). -/
theorem units_ahead {s : State} (h : GroupReady s) (hlen : ∀ ss, 64 ≤ (s.io.source.get ss).length) (hno : ¬ escapeAhead s) :
    ∃ n e rest, UnitsAhead s n e rest := by
  have hwidth := unitWidth_le h.legal
  have hluma := lumaBits_length_ge (hlen .i0)
  have hmax : prefixMax .i0 (planOf s .i0) ≤ 13 := by
    have := hwidth .i0
    rw [if_pos rfl] at this
    simp only [prefixMax_luma, planOf]
    omega
  obtain ⟨v, hv, bs, hbs⟩ := unary_ahead (vmax := prefixMax .i0 (planOf s .i0)) (bs := lumaBits s) (by omega)
  have hunit := fun hn => hno ((escapeAhead_iff hv hbs).2 hn)
  obtain ⟨n0, e0, rest0, low0, high0, fits0, hsource0⟩ := unit_ahead (l := s.mode.ichSelected) (unitFloor_lt h .i0) hv
    (fun _ => hunit) hbs (by
      have hsplit := congrArg List.length hbs
      have hcode := unaryBits_length_le hv
      have := hwidth .i0
      rw [if_pos rfl] at this
      rw [List.length_append] at hsplit
      simp only [planOf]
      omega)
  have chroma (c : Cpnt) (hc : c ≠ .i0) := chroma_ahead (l := s.mode.ichSelected) (u := planOf s c)
    (bs := s.io.source.get c) hc (unitFloor_lt h c) (by
      have := hwidth c
      rw [if_neg hc] at this
      have := hlen c
      simp only [prefixMax_chroma hc, planOf]
      omega)
  obtain ⟨n1, e1, rest1, low1, high1, fits1, hsource1⟩ := chroma .i1 (by decide)
  obtain ⟨n2, e2, rest2, low2, high2, fits2, hsource2⟩ := chroma .i2 (by decide)
  exact ⟨⟨n0, n1, n2⟩, ⟨e0, e1, e2⟩, ⟨rest0, rest1, rest2⟩, fun c => by cases c <;> assumption,
    fun c => by cases c <;> assumption, fun c => by cases c <;> assumption, fun c => by cases c <;> assumption⟩

/-- Five bits are the index they name (30_encoding.md R155). -/
theorem index_split {bs : List Bool} {i : Nat} (h : 5 * i + 5 ≤ bs.length) :
    bs.drop (5 * i) = toBits 5 (indexIn bs i) ++ bs.drop (5 * (i + 1)) ∧ indexIn bs i < 32 := by
  have hfive : ((bs.drop (5 * i)).take 5).length = 5 := by
    simp
    omega
  have hbits := toBits_ofBits ((bs.drop (5 * i)).take 5)
  have hlt := ofBits_lt ((bs.drop (5 * i)).take 5)
  rw [hfive] at hbits hlt
  refine ⟨?_, hlt⟩
  rw [indexIn, hbits, Nat.mul_add, Nat.mul_one, ← List.drop_drop, List.take_append_drop]

/-- With an escape, bits that are long enough hold three indices (30_encoding.md R152, R155). -/
theorem indices_ahead {s : State} (h : GroupReady s) (hlen : ∀ ss, 64 ≤ (s.io.source.get ss).length) (hesc : escapeAhead s) :
    ∃ ks rest, IndicesAhead s ks rest := by
  have hwidth := unitWidth_le h.legal .i0
  have hluma := lumaBits_length_ge (hlen .i0)
  rw [if_pos rfl] at hwidth
  have hmax : lumaMax s ≤ 13 := by
    unfold lumaMax
    omega
  obtain ⟨v, hv, bs, hbs⟩ := unary_ahead (vmax := lumaMax s) (bs := lumaBits s) (by omega)
  obtain rfl := (escapeAhead_iff hv hbs).1 hesc
  have hcode : (unaryBits (escapeValue s.mode.ichSelected (planOf s .i0)) (lumaMax s)).length = escapeLength s := by
    have hpos : lumaMax s ≠ 0 := Nat.succ_ne_zero _
    rw [unaryBits_length _ _ hv, unaryLen, escapeLength, escapeValue, show prefixMax .i0 (planOf s .i0) = lumaMax s from rfl]
    split <;> simp [Nat.pos_of_ne_zero hpos]
  have hdrop : (lumaBits s).drop (escapeLength s) = bs := by rw [hbs, ← hcode, List.drop_left]
  have hbits : 15 ≤ bs.length := by
    have hsplit := congrArg List.length hbs
    have := unaryBits_length_le hv
    rw [List.length_append] at hsplit
    omega
  obtain ⟨h0, lt0⟩ := index_split (bs := bs) (i := 0) (by omega)
  obtain ⟨h1, lt1⟩ := index_split (bs := bs) (i := 1) (by omega)
  obtain ⟨h2, lt2⟩ := index_split (bs := bs) (i := 2) (by omega)
  have hsplit : bs = indexWire ⟨indexIn bs 0, indexIn bs 1, indexIn bs 2⟩ ++ bs.drop 15 := by
    rw [indexWire, List.append_assoc, List.append_assoc, ← h2, ← h1]
    exact h0
  refine ⟨⟨indexIn bs 0, indexIn bs 1, indexIn bs 2⟩, ⟨bs.drop 15, s.io.source.a1, s.io.source.a2⟩, fun i => ?_, fun i => ?_,
    fun ss => ?_⟩
  · rw [ichIndexAhead_eq, hdrop]
    cases i <;> rfl
  · cases i <;> assumption
  · cases ss with
    | i0 =>
      refine hbs.trans ?_
      rw [Tri.get_i0, Tri.get_i0, escapeWire, List.append_assoc, ← hsplit]
      rfl
    | i1 => rfl
    | i2 => rfl

end Sys2Proof.Machine

namespace Sys2Proof.Machine

/-! ### Reading the group -/

theorem afterFlat_groupReady {s : State} (h : GroupReady s) : GroupReady s.afterFlat := h.withFlatIo _ _

/-- The units ahead of a ready decoder are read and reconstructed (44_entropy.md R375 steps 2 and 3b). -/
theorem decodeUnits_units {s : State} (h : GroupReady s) (he : s.st.isEncoder = false) {n : Tri Nat} {e : Tri (Tri Int)}
    {rest : Tri (List Bool)} (ahead : UnitsAhead s n e rest) :
    ∃ p, (∀ c, UnitPredicted s (s.unitsWritten p e) c s.hPos (unitOf s c (n.get c)) (e.get c) (p.get c)) ∧
      decodeUnits s.hPos s.afterFlat =
        .ok ((codeWire .i0 s.mode.ichSelected (unitOf s .i0 n.a0) e.a0).length +
            (codeWire .i1 s.mode.ichSelected (unitOf s .i1 n.a1) e.a1).length +
            (codeWire .i2 s.mode.ichSelected (unitOf s .i2 n.a2) e.a2).length, .units (triOf fun c => unitOf s c (n.get c)))
          (s.groupRead (groupSamples s p e) (groupWords p) (groupWords e) s.mode.ichIdx rest) := by
  have hready := afterFlat_groupReady h
  obtain ⟨p, hcoded, hpredicted⟩ := units_ready hready ahead.low ahead.high ahead.fits
  refine ⟨p, fun c => ?_, ?_⟩
  · exact (hpredicted c).of_readsAs (afterFlat_readsAs s _ rfl c _) ⟨fun _ _ => rfl, fun _ => rfl, rfl, rfl, rfl, rfl⟩ h.vector
  · have hread := decRead_units hcoded s.afterFlat.port s.afterFlat.orig ahead.source
    rw [asDecoder_self (s := s.afterFlat) he] at hread
    have hplans := hready.unitPlans_eq
    have hself := asDecoder_self
      (s := s.groupRead (groupSamples s p e) (groupWords p) (groupWords e) s.mode.ichIdx rest) he
    exact (act_bind_ok (act_sense_ok hplans)).trans (hread.trans (congrArg _ hself))

/-- The indices ahead of a ready decoder, if they name valid entries, are read and looked up (44_entropy.md R375 steps 2 and
3a). -/
theorem decodeUnits_indices {s : State} (h : GroupReady s) {ks : Tri Nat} {rest : Tri (List Bool)}
    (ahead : IndicesAhead s ks rest) (hvalid : ∀ i, ichValidAt s (ks.get i) = true) :
    ∃ x, Looked s s.hPos ks x ∧
      decodeUnits s.hPos s.afterFlat =
        .ok ((escapeWire s.mode.ichSelected (planOf s .i0) ks).length, .ich)
          (s.groupRead x (ichWords x) (Tri.fill (Tri.fill 0)) (triMap (BitVec.ofNat 5) ks) rest) := by
  have hready := afterFlat_groupReady h
  obtain ⟨x, hx⟩ := looked_ready h hvalid
  refine ⟨x, hx, ?_⟩
  have hlooked : Looked ((s.afterFlat.withSource .i0 rest.a0).indexed ks) s.hPos ks x := hx
  have hread := decRead_escape (s := s.afterFlat) (us := ⟨planOf s .i0, planOf s .i1, planOf s .i2⟩)
    (fun i => ⟨ahead.small i, hvalid i⟩) (ahead.source .i0) (ichGroup_eq hlooked)
  have hplans := hready.unitPlans_eq
  refine (act_bind_ok (act_sense_ok hplans)).trans (hread.trans (congrArg _ ?_))
  have hrest : s.afterFlat.io.source.set .i0 rest.a0 = rest := set_luma_rest ahead.source
  rw [State.groupRead, ← hrest]
  rfl

end Sys2Proof.Machine

namespace Sys2Proof.Machine

/-! ## The end of a group in closed form -/

/-- A register that has room takes its value. -/
theorem fitU_room {w x : Nat} (reg : Nat) (h : x < 2 ^ w) (s : State) : fitU w reg x s = .ok (BitVec.ofNat w x) s := by
  have hfit : (0 : Int) ≤ x ∧ (x : Int) < 2 ^ w := ⟨Int.natCast_nonneg x, by exact_mod_cast h⟩
  rw [act_fitU, if_pos hfit, BitVec.ofInt_natCast]

theorem ofNat_toNat_succ {w : Nat} (x : BitVec w) : BitVec.ofNat w (x.toNat + 1) = x + 1 := by
  rw [BitVec.ofNat_add, BitVec.ofNat_toNat, BitVec.setWidth_eq]
  rfl

/-- The state after the size bookkeeping (44_entropy.md R377). -/
def State.groupSized (s : State) (bits : Nat) (g : GroupCode) : State :=
  { s with
    mode := { s.mode with prevIchSelected := s.mode.ichSelected, ichSelected := g.isIch }
    pos := { s.pos with codedBitsTotal := BitVec.ofNat 32 (s.pos.codedBitsTotal.toNat + bits) }
    size := { sizesAfter s g with codedGroupSize := BitVec.ofNat 16 bits } }

theorem groupSizes_eq {s : State} {bits : Nat} (g : GroupCode) (hbits : bits ≤ 65535)
    (htotal : s.pos.codedBitsTotal.toNat + bits < 2 ^ 32) : groupSizes bits g s = .ok () (s.groupSized bits g) := by
  refine (act_bind_ok (act_update _ s)).trans ((act_bind_ok (act_demand_pos (decide_eq_true hbits))).trans ?_)
  refine (act_bind_ok (act_update _ _)).trans ((act_bind_ok (act_look _ _)).trans ?_)
  refine (act_bind_ok (fitU_room 0x0306 htotal _)).trans ((act_bind_ok (act_update _ _)).trans ?_)
  refine (act_update _ _).trans ?_
  cases g <;> rfl

theorem groupAdvance_eq {s : State} {gs : Nat} (hgs : gs + 3 < 2 ^ 16) (hcount : s.pos.groupCount.toNat + 1 < 2 ^ 32)
    (hline : s.pos.groupInLine.toNat + 1 < 2 ^ 16) : groupAdvance gs s =
      .ok () (s.groupAdvanced (s.pos.groupCount + 1) (BitVec.ofNat 16 (gs + 3)) (s.pos.groupInLine + 1)) := by
  refine (act_bind_ok (act_update _ s)).trans ((act_bind_ok (act_look _ _)).trans ?_)
  refine (act_bind_ok (fitU_room 0x0304 hcount _)).trans ((act_bind_ok (act_update _ _)).trans ?_)
  refine (act_bind_ok (fitU_room 0x0302 hgs _)).trans ((act_bind_ok (act_update _ _)).trans ?_)
  refine (act_bind_ok (act_look _ _)).trans ((act_bind_ok (fitU_room 0x0303 hline _)).trans ?_)
  refine (act_bind_ok (act_update _ _)).trans ((act_update _ _).trans ?_)
  rw [ofNat_toNat_succ, ofNat_toNat_succ]
  rfl

/-- The cache after the pixels of a list of offsets (42_ich.md R272, R273). -/
theorem forAll_ichUpdate {s : State} {gs : Nat} {l : List Nat} {t : Nat → Tri Sample}
    (h : ∀ j ∈ l, curTriple s (gs + j) = .ok (t j)) :
    forAll (fun j => ichUpdatePixel (gs + j)) l s =
      .ok () (s.withIch (l.foldl (fun a j => ichInsert (ichSlots s) (t j) a) s.ich)) := by
  induction l generalizing s with
  | nil => rfl
  | cons j l ih =>
    have hfirst : ichUpdatePixel (gs + j) s = .ok () (s.withIch (ichInsert (ichSlots s) (t j) s.ich)) :=
      act_bind_ok (act_sense_ok (h j List.mem_cons_self))
    have hrest := ih (s := s.withIch (ichInsert (ichSlots s) (t j) s.ich)) fun k hk => h k (List.mem_cons_of_mem _ hk)
    exact (act_bind_ok hfirst).trans hrest

/-- The triple of samples at a position (42_ich.md R273). -/
def tripleAt (s : State) (j : Nat) : Tri Sample := triOf fun c => BitVec.ofInt 16 (sampleAt s c j)

/-- The cache after the real pixels of the group at gs (42_ich.md R273). -/
def cacheUpdated (s : State) (gs : Nat) : List IchEntry :=
  (List.range (realPixels s gs)).foldl (fun a j => ichInsert (ichSlots s) (tripleAt s (gs + j)) a) s.ich

theorem sampleAt_of_ok {s : State} {c : Cpnt} {j x : Int} (h : curRead s c j = .ok x) : sampleAt s c j = x := by
  rw [sampleAt, h]
  rfl

/-- A triple whose samples are written is read. -/
theorem curTriple_eq {s : State} {j : Nat} (h : ∀ c, (storeRead (s.cur.get c) j).isSome = true) :
    curTriple s j = .ok (tripleAt s j) := by
  refine readTri_ok fun c => ?_
  obtain ⟨v, hv⟩ := Option.isSome_iff_exists.1 (h c)
  have hcell := readCell_some (sp := .cur) (b := s.cur) hv
  have hread : curRead s c j = .ok (v.toNat : Int) := (curRead_inside c (Int.natCast_nonneg j)).trans hcell
  rw [hcell, tripleAt, triOf_get, sampleAt_of_ok hread]
  rfl

theorem ichUpdateGroup_eq {s : State} {gs : Nat} (h : ∀ c, Written s c (gs + 3)) (isIch : Bool) :
    ichUpdateGroup gs isIch s = .ok () (s.withIch (cacheUpdated s gs)) := by
  refine (act_bind_ok (act_look _ s)).trans ((congrFun (if_pos (.inl rfl)) s).trans (forAll_ichUpdate fun j hj => ?_))
  have hj : j < 3 := (List.mem_range.1 hj).trans_le (Nat.min_le_left _ _)
  exact curTriple_eq fun c => h c _ (by omega)

/-- The state after a group command (44_entropy.md R377, R378, 42_ich.md R273, 40_prediction.md R202). -/
def State.groupEnded (s : State) (gs bits : Nat) (g : GroupCode) (b : BpRegs) : State :=
  { s with
    port := { s.port with res := BitVec.ofNat 32 bits }
    pos :=
      { s.pos with
        hPos := BitVec.ofNat 16 (gs + 3)
        groupInLine := s.pos.groupInLine + 1
        groupCount := s.pos.groupCount + 1
        codedBitsTotal := BitVec.ofNat 32 (s.pos.codedBitsTotal.toNat + bits) }
    size := { sizesAfter s g with codedGroupSize := BitVec.ofNat 16 bits }
    mode := { s.mode with prevIchSelected := s.mode.ichSelected, ichSelected := g.isIch, groupPending := true }
    flat := { s.flat with sgPos := s.flat.sgPos + 1 }
    ich := cacheUpdated s gs
    bp := b }

/-- The bookkeeping of a group whose samples are written, in a state with room in its counters. -/
theorem finishGroup_eq {s : State} {gs bits : Nat} (g : GroupCode) {b : BpRegs} (hwritten : ∀ c, Written s c (gs + 3))
    (hsearch : bpSearchGroup ((s.groupSized bits g).withIch (cacheUpdated s gs)) gs = .ok b) (hbits : bits ≤ 65535)
    (htotal : s.pos.codedBitsTotal.toNat + bits < 2 ^ 32) (hgs : gs + 3 < 2 ^ 16)
    (hcount : s.pos.groupCount.toNat + 1 < 2 ^ 32) (hline : s.pos.groupInLine.toNat + 1 < 2 ^ 16) :
    finishGroup gs bits g s = .ok () (s.groupEnded gs bits g b) := by
  have hcache := ichUpdateGroup_eq (s := s.groupSized bits g) hwritten g.isIch
  have hadvance := groupAdvance_eq (s := ((s.groupSized bits g).withIch (cacheUpdated s gs)).withBp b) hgs hcount hline
  have hbook : groupBookkeeping gs g (s.groupSized bits g) =
      .ok () ((((s.groupSized bits g).withIch (cacheUpdated s gs)).withBp b).groupAdvanced (s.pos.groupCount + 1)
        (BitVec.ofNat 16 (gs + 3)) (s.pos.groupInLine + 1)) :=
    (act_bind_ok hcache).trans ((act_bind_ok (act_sense_ok hsearch)).trans ((act_bind_ok (act_update _ _)).trans hadvance))
  refine (act_bind_ok (groupSizes_eq g hbits htotal)).trans ((act_bind_ok hbook).trans ((act_writeRes _ _).trans ?_))
  rw [State.setRes, BitVec.ofInt_natCast]
  rfl

end Sys2Proof.Machine

namespace Sys2Proof.Machine

/-! ## The block-prediction search in closed form -/

/-- The state t holds the samples of the next group of s, and reads them and the line above (40_prediction.md R201, R202). -/
structure GroupHeld (s t : State) : Prop where
  cur : ∀ c (j : Int), j < s.hPos + 3 → curRead t c j = .ok (sampleAt t c j)
  blend : 1 ≤ s.vPos → ∀ c q, ∃ m, mapBlend t c s.hPos q = .ok m
  level : ∀ c, mapQpToLevel t c t.masterQp = .ok (unitLevel s c)
  vPos : t.vPos = s.vPos
  width : t.width = s.width
  depth : ∀ c, t.depth c = s.depth c

section Sums

theorem groupPixels_le (s : State) : groupPixels s ≤ 3 := Nat.min_le_left _ _

/-- The pixels of a group and their components, as positions (40_prediction.md R202). -/
theorem mem_pixelPairs {n : Nat} {ic : Pix × Cpnt} : ic ∈ pixelPairs n ↔ ic.1.toNat < n := by
  obtain ⟨i, c⟩ := ic
  have hall (c : Cpnt) : c ∈ Idx3.all := Idx3.mem_all c
  have hmem : i ∈ Idx3.all.take n ↔ i.toNat < n := by
    rcases n with _ | _ | _ | n <;> cases i <;> simp [Idx3.all]
  simp [pixelPairs, hmem, hall]

/-- A sum over the pairs is a sum over the pixels. -/
theorem sum_pixelPairs {n : Nat} (h : n ≤ 3) (f : Nat → Cpnt → Nat) :
    ((pixelPairs n).map fun ic => f ic.1.toNat ic.2).sum =
      ((List.range n).map fun i => f i .i0 + f i .i1 + f i .i2).sum := by
  obtain rfl | rfl | rfl | rfl : n = 0 ∨ n = 1 ∨ n = 2 ∨ n = 3 := by omega
  all_goals simp [pixelPairs, Idx3.all, List.range_succ]
  all_goals omega

end Sums

namespace GroupHeld

variable {s t : State} (h : GroupHeld s t)

include h

theorem realPixels_eq : realPixels t s.hPos = groupPixels s := by rw [realPixels, h.width, groupPixels]

theorem mapPred_eq (hv : 1 ≤ s.vPos) (c : Cpnt) (q : Nat) :
    ∃ m, mapBlend t c s.hPos q = .ok m ∧ ∀ i r0 r1, valueOf (mapPred t c s.hPos i q r0 r1) = m.predict i r0 r1 := by
  obtain ⟨m, hm⟩ := h.blend hv c q
  refine ⟨m, hm, fun i r0 r1 => ?_⟩
  rw [mapPred, hm]
  rfl

/-- A cost of the group is the sum of its differences (40_prediction.md R202). -/
theorem groupSad_eq {p : Pix → Cpnt → Rd Int} {y : Nat → Cpnt → Int}
    (hp : ∀ (i : Pix) c, p i c = .ok (y i.toNat c)) :
    groupSad t s.hPos (groupPixels s) p = .ok (sumOverGroup s fun i c => sampleAt t c ((s.hPos : Int) + i) - y i c) := by
  have hread : ∀ ic ∈ pixelPairs (groupPixels s), (do
      let x ← curRead t ic.2 ((s.hPos : Int) + ic.1.toNat)
      let y ← p ic.1 ic.2
      .ok (absNat (x - y)) : Rd Nat) =
        .ok ((fun ic : Pix × Cpnt => (sampleAt t ic.2 ((s.hPos : Int) + ic.1.toNat) - y ic.1.toNat ic.2).natAbs) ic) :=
    fun ic _ => by
      have hi := ic.1.toNat_lt
      rw [h.cur ic.2 _ (by omega), hp]
      rfl
  rw [groupSad, readAll_ok hread]
  exact congrArg Except.ok (sum_pixelPairs (groupPixels_le s) fun i c => (sampleAt t c ((s.hPos : Int) + i) - y i c).natAbs)

/-- `newBp[-v]` (40_prediction.md R202). -/
theorem bpNewCost_eq (v : Nat) : bpNewCost t s.hPos (groupPixels s) v = .ok (vectorCost s t v) :=
  h.groupSad_eq (y := fun i c => sampleAt t c ((s.hPos : Int) + i - v)) fun i c => by
    have hi := i.toNat_lt
    exact h.cur c _ (by omega)

/-- The reference predictions (40_prediction.md R201). -/
theorem refPred_eq (c : Cpnt) : refPred t c s.hPos = .ok (referencePrediction s t c) := by
  have hlevel := h.level c
  rw [refPred, hlevel]
  rcases Nat.eq_zero_or_pos s.vPos with h0 | h1
  · have hv : t.vPos = 0 := h.vPos.trans h0
    refine (if_pos hv).trans (readTri_ok fun i => ?_)
    have hi := i.toNat_lt
    rw [h.cur c _ (by omega)]
    simp only [referencePrediction, if_pos h0]
    cases i <;> simp [Tri.get, add_sub_assoc, ← sub_eq_add_neg]
  · have hv : ¬ t.vPos = 0 := by
      rw [h.vPos]
      omega
    have hs : ¬ s.vPos = 0 := by omega
    obtain ⟨m, hm, hpred⟩ := h.mapPred_eq h1 c (unitLevel s c)
    have hx0 := h.cur c s.hPos (by omega)
    have hx1 := h.cur c (s.hPos + 1) (by omega)
    refine (if_neg hv).trans (rd_bind_eq_ok.2 ⟨m, hm, rd_bind_eq_ok.2 ⟨_, hx0, rd_bind_eq_ok.2 ⟨_, hx1, ?_⟩⟩⟩)
    simp [referencePrediction, hs, hpred]

/-- `newMap` (40_prediction.md R202). -/
theorem bpNewMap_eq : bpNewMap t s.hPos (groupPixels s) = .ok (mapCost s t) := by
  have hrefs : readTri (fun c => refPred t c s.hPos) = .ok (triOf fun c => referencePrediction s t c) :=
    readTri_ok fun c => by rw [triOf_get, h.refPred_eq]
  refine rd_bind_eq_ok.2 ⟨_, hrefs, h.groupSad_eq (y := fun i c =>
    if i = 0 then (referencePrediction s t c).a0 else if i = 1 then (referencePrediction s t c).a1
    else (referencePrediction s t c).a2) fun i c => ?_⟩
  rw [triOf_get]
  cases i <;> rfl

/-- An edge (40_prediction.md R202). -/
theorem bpEdge_eq : ∃ edge, bpEdge t s.hPos (groupPixels s) = .ok edge ∧ (edge = true ↔ edgeSeen s t) := by
  have hread : ∀ ic ∈ pixelPairs (groupPixels s), (do
      let x ← curRead t ic.2 ((s.hPos : Int) + ic.1.toNat)
      let y ← curRead t ic.2 ((s.hPos : Int) + ic.1.toNat - 1)
      .ok (decide (bpEdgeThresh (t.depth ic.2) < absNat (x - y))) : Rd Bool) =
        .ok ((fun ic : Pix × Cpnt => decide (2 ^ (s.depth ic.2 - 3) <
          (sampleAt t ic.2 ((s.hPos : Int) + ic.1.toNat) - sampleAt t ic.2 ((s.hPos : Int) + ic.1.toNat - 1)).natAbs)) ic) :=
    fun ic _ => by
      have hi := ic.1.toNat_lt
      rw [h.cur ic.2 _ (by omega), h.cur ic.2 _ (by omega), h.depth]
      rfl
  refine ⟨_, by rw [bpEdge, readAll_ok hread]; rfl, ?_⟩
  simp only [List.any_map, List.any_eq_true, Function.comp, id, decide_eq_true_eq, mem_pixelPairs, edgeSeen]
  constructor
  · rintro ⟨⟨i, c⟩, hi, hedge⟩
    exact ⟨i.toNat, hi, c, hedge⟩
  · rintro ⟨i, hi, c, hedge⟩
    have := groupPixels_le s
    obtain rfl | rfl | rfl : i = 0 ∨ i = 1 ∨ i = 2 := by omega
    · exact ⟨(.i0, c), hi, hedge⟩
    · exact ⟨(.i1, c), hi, hedge⟩
    · exact ⟨(.i2, c), hi, hedge⟩

/-- The costs that the search stores for the group (40_prediction.md R202). -/
theorem bpSearchGroup_eq :
    ∃ edge, bpSearchGroup t s.hPos = .ok (bpAdvance t (s.hPos / 3)
        ⟨(bpCandidates.map (vectorCost s t)).map bpSaturate, bpSaturate (mapCost s t)⟩ edge) ∧
      (edge = true ↔ edgeSeen s t) := by
  obtain ⟨edge, hedge, hseen⟩ := h.bpEdge_eq
  refine ⟨edge, ?_, hseen⟩
  have hcosts := readAll_ok (l := bpCandidates) fun v _ => h.bpNewCost_eq v
  unfold bpSearchGroup
  rw [h.realPixels_eq]
  exact rd_bind_eq_ok.2 ⟨_, h.bpNewMap_eq, rd_bind_eq_ok.2 ⟨_, hcosts, rd_bind_eq_ok.2 ⟨_, hedge, rfl⟩⟩⟩

end GroupHeld

end Sys2Proof.Machine

namespace Sys2Proof.Machine

/-! ### The registers of the search -/

/-- The best candidate is the first of least cost (40_prediction.md R202). -/
theorem bestCandidate_least {l : List (Nat × Nat)} (sorted : l.Pairwise fun x y => x.1 < y.1) {x : Nat × Nat} (hx : x ∈ l) :
    (bestCandidate l).2 ≤ x.2 ∧ (x.1 < (bestCandidate l).1 → (bestCandidate l).2 < x.2) := by
  induction l with
  | nil => cases hx
  | cons a l ih =>
    cases l with
    | nil =>
      obtain rfl := List.mem_singleton.1 hx
      exact ⟨le_rfl, fun hn => absurd hn (lt_irrefl _)⟩
    | cons b rest =>
      obtain ⟨hfirst, hrest⟩ := List.pairwise_cons.1 sorted
      have hmem : bestCandidate (b :: rest) ∈ b :: rest := bestCandidate_mem (List.cons_ne_nil b rest)
      have hless := hfirst _ hmem
      rw [bestCandidate]
      rcases List.mem_cons.1 hx with rfl | hx
      · split_ifs with hbeat
        · exact ⟨hbeat.le, fun _ => hbeat⟩
        · exact ⟨le_rfl, fun hn => absurd hn (lt_irrefl _)⟩
      · obtain ⟨hle, hlt⟩ := ih hrest hx
        split_ifs with hbeat
        · exact ⟨hle, hlt⟩
        · have := hfirst x hx
          exact ⟨(not_lt.1 hbeat).trans hle, fun hn => absurd hn (not_lt.2 this.le)⟩

/-- The candidates with their costs stand in the order of their distance. -/
theorem bpCandidateCosts_sorted (w : Tri BpCost) (n : Nat) : (bpCandidateCosts w n).Pairwise fun x y => x.1 < y.1 := by
  rw [bpCandidateCosts, List.pairwise_map]
  exact (by decide : (List.range bpCandidates.length).Pairwise fun i j => bpCandidates.getD i 0 < bpCandidates.getD j 0)

/-- Every candidate is compared with its cost over the window. -/
theorem mem_bpCandidateCosts {w : Tri BpCost} {n : Nat} {x : Nat × Nat} :
    x ∈ bpCandidateCosts w n ↔ (3 ≤ x.1 ∧ x.1 ≤ 10) ∧ x.2 = winBpCost w n (x.1 - 3) := by
  have hget : ∀ j < 8, bpCandidates.getD j 0 = j + 3 := by decide
  constructor
  · intro hx
    obtain ⟨j, hj, rfl⟩ := List.mem_map.1 hx
    rw [hget j (List.mem_range.1 hj)]
    have : j < 8 := List.mem_range.1 hj
    exact ⟨⟨by omega, by dsimp only; omega⟩, rfl⟩
  · rintro ⟨⟨low, high⟩, hcost⟩
    have hj : x.1 - 3 < 8 := by omega
    refine List.mem_map.2 ⟨x.1 - 3, List.mem_range.2 hj, ?_⟩
    rw [hget _ hj, ← hcost, Nat.sub_add_cancel low]

section Advance

variable (s : State) (g : Nat) (new : BpCost) (edge : Bool)

/-- The groups that the window holds after the group (40_prediction.md R202). -/
def seenAfter : Nat := min 3 (s.bp.bpGroupsSeen.toNat + 1)

theorem bpAdvance_seen : (bpAdvance s g new edge).bpGroupsSeen.toNat = seenAfter s := by
  have hle : seenAfter s ≤ 3 := Nat.min_le_left _ _
  exact (BitVec.toNat_ofNat _ _).trans (Nat.mod_eq_of_lt (by omega : seenAfter s < 2 ^ 2))

/-- The window after the group. -/
def windowAfter : Tri BpCost := ⟨new, s.bp.window.a0, s.bp.window.a1⟩

theorem windowCost_bpAdvance (v : Nat) :
    windowCost (bpAdvance s g new edge) v = winBpCost (windowAfter s new) (seenAfter s) (v - 3) := by
  rw [windowCost, bpAdvance_seen]
  rfl

theorem windowMapCost_bpAdvance :
    windowMapCost (bpAdvance s g new edge) = winMapCost (windowAfter s new) (seenAfter s) := by
  rw [windowMapCost, bpAdvance_seen]
  rfl

/-- The search's best candidate. -/
def bestAfter : Nat × Nat := bestCandidate (bpCandidateCosts (windowAfter s new) (seenAfter s))

theorem bestAfter_mem :
    (3 ≤ (bestAfter s new).1 ∧ (bestAfter s new).1 ≤ 10) ∧
      (bestAfter s new).2 = winBpCost (windowAfter s new) (seenAfter s) ((bestAfter s new).1 - 3) :=
  mem_bpCandidateCosts.1 (bestCandidate_mem (by simp [bpCandidateCosts, bpCandidates]))

theorem bestAfter_cost : (bestAfter s new).2 = windowCost (bpAdvance s g new edge) (bestAfter s new).1 := by
  rw [windowCost_bpAdvance]
  exact (bestAfter_mem s new).2

/-- The run of groups in which a block vector beats MAP (40_prediction.md R202). -/
theorem bpAdvance_run :
    (bpAdvance s g new edge).bpRun.toNat =
      if windowCost (bpAdvance s g new edge) (bestAfter s new).1 < windowMapCost (bpAdvance s g new edge) then
        min 255 (s.bp.bpRun.toNat + 1)
      else 0 := by
  rw [← bestAfter_cost, windowMapCost_bpAdvance]
  refine (BitVec.toNat_ofNat _ _).trans ((Nat.mod_eq_of_lt ?_).trans rfl)
  split <;> omega

theorem bpAdvance_hold : (bpAdvance s g new edge).edgeHold.toNat = if edge = true then 3 else s.bp.edgeHold.toNat - 1 := by
  have := s.bp.edgeHold.isLt
  refine (BitVec.toNat_ofNat _ _).trans ((Nat.mod_eq_of_lt ?_).trans rfl)
  unfold bpEdgeHold
  split <;> omega

theorem bpAdvance_vector (j : Nat) :
    ((bpAdvance s g new edge).bpVecNext.getD j 0) =
      if j = g then BitVec.ofNat 5 (bestAfter s new).1 else s.bp.bpVecNext.getD j 0 :=
  listSet_getD _ _ _ _ _

/-- The class of the next line's group (40_prediction.md R191, R202). -/
theorem bpAdvance_class (j : Nat) :
    ((bpAdvance s g new edge).ptypeNext.getD j .left) =
      if j = g then
        if s.cfg .blockPredEnable = 1 ∧ (bpAdvance s g new edge).bpGroupsSeen.toNat = 3 ∧
          3 ≤ (bpAdvance s g new edge).bpRun.toNat ∧ (bpAdvance s g new edge).edgeHold.toNat = 0 then .bp else .map
      else s.bp.ptypeNext.getD j .left := by
  refine (listSet_getD _ _ _ _ _).trans ?_
  refine if_congr Iff.rfl (if_congr ?_ rfl rfl) rfl
  rw [cfgFlag_eq, bpAdvance_seen, bpAdvance_run, bpAdvance_hold, ← bestAfter_cost, windowMapCost_bpAdvance]
  rfl

end Advance

theorem bpSaturate_toNat (x : Nat) : (bpSaturate x).toNat = min 65535 x := by
  rw [bpSaturate, BitVec.toNat_ofNat, Nat.mod_eq_of_lt (by omega), min_comm]

/-- The search of a group is done by advancing the registers by its costs (40_prediction.md R191, R202). -/
theorem searchDone_of_bpAdvance {s t u : State} {edge : Bool} (hcfg : u.cfg .blockPredEnable = s.cfg .blockPredEnable)
    (hbp : u.bp = s.bp)
    (h : t.bp = bpAdvance u (s.hPos / 3) ⟨(bpCandidates.map (vectorCost s t)).map bpSaturate, bpSaturate (mapCost s t)⟩ edge)
    (hedge : edge = true ↔ edgeSeen s t) : SearchDone s t where
  vectorCosts v low high := by
    rw [h]
    have hget : (bpCandidates.map (vectorCost s t)).map bpSaturate =
        (List.range 8).map fun j => bpSaturate (vectorCost s t (j + 3)) := rfl
    have hv : v - 3 < 8 := by omega
    have hcost : ((bpCandidates.map (vectorCost s t)).map bpSaturate).getD (v - 3) 0 = bpSaturate (vectorCost s t v) := by
      rw [hget]
      simp [List.getD_eq_getElem?_getD, hv, Nat.sub_add_cancel low]
    exact (congrArg BitVec.toNat hcost).trans (bpSaturate_toNat _)
  mapCosts := by
    rw [h]
    exact bpSaturate_toNat _
  shifted := by
    rw [h, ← hbp]
    exact ⟨rfl, rfl⟩
  seen := by
    rw [h, bpAdvance_seen, seenAfter, hbp]
  edge hseen := by
    rw [h]
    refine BitVec.eq_of_toNat_eq ((bpAdvance_hold _ _ _ _).trans ?_)
    rw [if_pos (hedge.2 hseen)]
    rfl
  noEdge hno := by
    rw [h, bpAdvance_hold, if_neg fun hn => hno (hedge.1 hn), hbp]
  best := by
    rw [h]
    generalize (⟨(bpCandidates.map (vectorCost s t)).map bpSaturate, bpSaturate (mapCost s t)⟩ : BpCost) = new
    obtain ⟨⟨low, high⟩, hcost⟩ := bestAfter_mem u new
    refine ⟨(bestAfter u new).1, low, high, fun v' low' high' => ?_, ?_, ?_⟩
    · have hleast := bestCandidate_least (bpCandidateCosts_sorted (windowAfter u new) (seenAfter u))
        (mem_bpCandidateCosts.2 ⟨⟨low', high'⟩, rfl⟩ :
          (v', winBpCost (windowAfter u new) (seenAfter u) (v' - 3)) ∈ bpCandidateCosts (windowAfter u new) (seenAfter u))
      rw [← bestAfter_cost, windowCost_bpAdvance]
      exact hleast
    · rw [bpAdvance_vector, if_pos rfl, BitVec.toNat_ofNat, Nat.mod_eq_of_lt (by omega)]
    · rw [← hbp]
      exact bpAdvance_run u _ new edge
  chosen := by
    rw [h, bpAdvance_class, if_pos rfl, hcfg]
  others g hg := by
    rw [h, bpAdvance_class, if_neg hg, bpAdvance_vector, if_neg hg, hbp]
    exact ⟨rfl, rfl⟩
  kept := by
    rw [h, ← hbp]
    exact ⟨rfl, rfl, rfl⟩

end Sys2Proof.Machine

namespace Sys2Proof.Machine

/-! ## What the decoder leaves -/

/-- The state after `DEC_GROUP`: the samples v, the predictions p, the residuals e and the indices idx are written, the bits
are off the source, and the bookkeeping is done (44_entropy.md R375, R377, R378). -/
def State.groupDecoded (s : State) (v : Tri (Tri Sample)) (p e : Tri (Tri Word)) (idx : Tri (BitVec 5))
    (rest : Tri (List Bool)) (bits : Nat) (g : GroupCode) (b : BpRegs) : State :=
  (s.groupRead v p e idx rest).groupEnded s.hPos bits g b

theorem coded_groupWritten (s : State) (gs : Nat) (v : Tri (Tri Sample)) (p e : Tri (Tri Word)) :
    Coded s (s.groupWritten gs v p e) :=
  written_three s gs v p e ▸
    ((coded_written s .i0 gs v.a0 p.a0 e.a0).trans (coded_written _ .i1 gs v.a1 p.a1 e.a1)).trans
      (coded_written _ .i2 gs v.a2 p.a2 e.a2)

/-- The level of a component is that of the image and the QP (41_quantizer.md R232). -/
theorem mapQpToLevel_of_mem {s t : State} (hmem : t.mem = s.mem) (hqp : t.qp = s.qp) (c : Cpnt) :
    mapQpToLevel t c t.masterQp = mapQpToLevel s c s.masterQp := by
  cases s
  cases t
  cases hmem
  cases hqp
  rfl

section Written

variable {s : State} (v : Tri (Tri Sample)) (p e : Tri (Tri Word))

theorem storeRead_groupWritten_elsewhere (c : Cpnt) {gs j : Nat} (h : j < gs ∨ gs + 3 ≤ j) :
    storeRead ((s.groupWritten gs v p e).cur.get c) j = storeRead (s.cur.get c) j := by
  rw [groupWritten_cur, storeRead_writeThree_elsewhere _ _ h]

/-- The line is written through the group. -/
theorem written_groupWritten (h : GroupReady s) (c : Cpnt) : Written (s.groupWritten s.hPos v p e) c (s.hPos + 3) :=
  fun j hj => by
    rcases pixel_or_elsewhere s.hPos j with ⟨i, rfl⟩ | helse
    · rw [groupWritten_cur, storeRead_writeThree_pixel]
      rfl
    · rw [storeRead_groupWritten_elsewhere v p e c helse]
      exact h.left c j (by omega)

/-- A state with the group's samples is one the search can read (40_prediction.md R201, R202). -/
theorem groupHeld_of_readsAs (h : GroupReady s) {t : State} (ht : ∀ c n, ReadsAs (s.groupWritten s.hPos v p e) t c n)
    (hmem : t.mem = s.mem) (hqp : t.qp = s.qp) : GroupHeld s t := by
  have hready := (coded_groupWritten s s.hPos v p e).groupReady h
  refine ⟨fun c j hj => ?_, fun hv c q => ?_, fun c => ?_, (ht .i0 0).vPos, ?_, fun c => (ht c 0).depth⟩
  · obtain ⟨x, hx, -⟩ := hready.curRead_reads (written_groupWritten v p e h c) (by push_cast; exact hj)
    rw [← (ht c (j + 1)).cur j (by omega)] at hx
    rw [hx, sampleAt_of_ok hx]
  · obtain ⟨x, hx, -⟩ := hready.mapPred_reads hv c .i0 q 0 0
    obtain ⟨m, hm, -⟩ := rd_bind_eq_ok.1 (((ht c s.hPos).mapPred le_rfl .i0 q 0 0).trans hx)
    exact ⟨m, hm⟩
  · exact (mapQpToLevel_of_mem hmem hqp c).trans (mapQpToLevel_eq h.legal c h.masterQp)
  · rw [State.width, State.cfg, hmem]
    rfl

end Written

/-! ### The bookkeeping -/

section Sampled

variable {s t : State}

theorem ReadsAs.sampleAt {c : Cpnt} {n j : Int} (h : ReadsAs s t c n) (hj : j < n) : sampleAt t c j = sampleAt s c j := by
  rw [Machine.sampleAt, Machine.sampleAt, h.cur j hj]

/-- Of two states that read alike, what the search computes is alike (40_prediction.md R202). -/
theorem searchValues_of_reads (s : State) {t u : State} (hcur : ∀ c j, curRead u c j = curRead t c j)
    (hprev : ∀ c j, prevRead u c j = prevRead t c j) :
    vectorCost s u = vectorCost s t ∧ mapCost s u = mapCost s t ∧ (edgeSeen s u ↔ edgeSeen s t) := by
  have hsample : sampleAt u = sampleAt t := funext fun c => funext fun j => congrArg valueOf (hcur c j)
  have hmap (c : Cpnt) (i : Pix) (q : Nat) (r0 r1 : Int) : mapPred u c s.hPos i q r0 r1 = mapPred t c s.hPos i q r0 r1 := by
    simp only [mapPred, mapBlend, hcur, hprev]
  have hreference : referencePrediction s u = referencePrediction s t := by
    funext c
    simp only [referencePrediction, hsample, hmap]
  refine ⟨?_, ?_, ?_⟩
  · funext v
    simp only [vectorCost, hsample]
  · simp only [mapCost, hsample, hreference]
  · simp only [edgeSeen, hsample]

end Sampled

end Sys2Proof.Machine

namespace Sys2Proof.Machine

section Decoded

variable {s : State} {v : Tri (Tri Sample)} {p e : Tri (Tri Word)} {idx : Tri (BitVec 5)} {rest : Tri (List Bool)}
  {bits : Nat} {g : GroupCode} {b : BpRegs}

/-- The bookkeeping of a group that was read is done, and the search with it (44_entropy.md R377, R378). -/
theorem finishGroup_decoded (h : GroupReady s) (hbits : bits ≤ 1000) :
    ∃ b, finishGroup s.hPos bits g (s.groupRead v p e idx rest) = .ok () (s.groupDecoded v p e idx rest bits g b) ∧
      SearchDone s (s.groupDecoded v p e idx rest bits g b) := by
  have hwidth : s.width ≤ 8192 := h.legal.sliceWidth.2
  have hline := h.inLine
  have htotal := h.bits
  generalize ht : ((s.groupRead v p e idx rest).groupSized bits g).withIch (cacheUpdated (s.groupRead v p e idx rest) s.hPos) = t
  have hreads (c : Cpnt) (n : Int) : ReadsAs (s.groupWritten s.hPos v p e) t c n := by
    subst ht
    exact ⟨fun _ _ => rfl, fun _ => rfl, rfl, rfl, rfl, rfl⟩
  have hmem : t.mem = s.mem := by rw [← ht]; rfl
  have hbp : t.bp = s.bp := by rw [← ht]; rfl
  have hheld := groupHeld_of_readsAs v p e h hreads hmem (by rw [← ht]; rfl)
  obtain ⟨edge, hsearch, hedge⟩ := hheld.bpSearchGroup_eq
  refine ⟨bpAdvance t (s.hPos / 3) ⟨(bpCandidates.map (vectorCost s t)).map bpSaturate, bpSaturate (mapCost s t)⟩ edge,
    finishGroup_eq g (fun c => written_groupWritten v p e h c) (ht ▸ hsearch) (by omega) ?_ (by omega) h.groups
    h.lineGroups, ?_⟩
  · exact (by omega : s.pos.codedBitsTotal.toNat + bits < 2 ^ 32)
  · have hvalues (b : BpRegs) := searchValues_of_reads s (t := t)
      (u := s.groupDecoded v p e idx rest bits g b) (fun _ _ => by rw [← ht]; rfl) fun _ _ => by rw [← ht]; rfl
    refine searchDone_of_bpAdvance (u := t) (edge := edge) (by rw [State.cfg, State.cfg, hmem]) hbp ?_ ?_
    · rw [(hvalues _).1, (hvalues _).2.1]
      rfl
    · rw [(hvalues _).2.2]
      exact hedge

end Decoded

end Sys2Proof.Machine

namespace Sys2Proof.Machine

/-! ### The flatness record -/

/-- Reading the flatness fields writes the record of the next supergroup alone (44_entropy.md R375 step 1). -/
theorem flatRead_kept (s : State) :
    s.flatRead.sgPos = s.flat.sgPos ∧ s.flatRead.flatCur = s.flat.flatCur ∧
      s.flatRead.flatThisGroup = s.flat.flatThisGroup := by
  unfold State.flatRead State.flatSkipped
  split_ifs <;> exact ⟨rfl, rfl, rfl⟩

theorem flatRead_present {s : State} (h : flatPresent s) : s.flatRead.flatNext = flatRecordAhead s := by
  rw [State.flatRead, if_pos h]

theorem flatRead_absent {s : State} (h : ¬ flatPresent s) :
    s.flatRead.flatNext = if s.flat.sgPos = 0 then FlatRec.zero else s.flat.flatNext := by
  rw [State.flatRead, if_neg h, State.flatSkipped]
  split_ifs <;> rfl

section Decoded

variable {s : State} {v : Tri (Tri Sample)} {p e : Tri (Tri Word)} {idx : Tri (BitVec 5)} {rest : Tri (List Bool)}
  {bits : Nat} {g : GroupCode} {b : BpRegs}

/-- The bits of the flatness fields are those that were ahead (30_encoding.md R151). -/
theorem flatWire_decoded : flatWire s (s.groupDecoded v p e idx rest bits g b) = flatWireAhead s := by
  rw [flatWire_eq, flatWireAhead]
  refine ite_congr rfl (fun hp => congrArg recordWire (flatRead_present hp)) fun _ => rfl

/-- The group's samples are read as written. -/
theorem sampleAt_decoded (c : Cpnt) (i : Pix) :
    sampleAt (s.groupDecoded v p e idx rest bits g b) c ((s.hPos : Int) + i.toNat) = (((v.get c).get i).toNat : Int) :=
  sampleAt_of_ok (curRead_groupWritten s s.hPos v p e c i)

theorem cache_decoded :
    (s.groupDecoded v p e idx rest bits g b).ich = cacheAfter s (s.groupDecoded v p e idx rest bits g b) := rfl

theorem storeRead_decoded (c : Cpnt) (j : Nat) :
    storeRead ((s.groupDecoded v p e idx rest bits g b).cur.get c) j =
      storeRead ((s.groupWritten s.hPos v p e).cur.get c) j := rfl

end Decoded

/-- What an ICH group leaves (42_ich.md R275, 44_entropy.md R377). -/
def IchLeft (s t : State) : Prop :=
  t.size.rcSizeGroup = 0 ∧ t.size.predictedSize = s.size.predictedSize ∧ t.size.prevPredQp = s.size.prevPredQp ∧
    t.size.sizeUsed = ⟨0, 0, 0⟩ ∧ t.size.mppUsed = ⟨false, false, false⟩ ∧
    ∀ (c : Cpnt) (i : Pix), ((t.scratch.qres.get c).get i) = 0 ∧
      ((t.scratch.pred.get c).get i).toInt = sampleAt t c ((s.hPos : Int) + i.toNat) ∧
      historyLookup s (t.mode.ichIdx.get i).toNat c s.hPos = .ok (sampleAt t c ((s.hPos : Int) + i.toNat))

/-- What a group of three units leaves (44_entropy.md R377). -/
def UnitsLeft (s t : State) : Prop :=
  t.size.prevPredQp = s.qp.masterQp ∧ t.mode.ichIdx = s.mode.ichIdx ∧
    t.size.rcSizeGroup.toNat =
      3 * (t.size.sizeUsed.a0.toNat + t.size.sizeUsed.a1.toNat + t.size.sizeUsed.a2.toNat) ∧
    ∀ c, UnitDone s t c

/-- The bookkeeping and the frame of a group that was read, whatever it was coded as (44_entropy.md R375, R377, R378). -/
theorem groupDone_decoded {s : State} {v : Tri (Tri Sample)} {p e : Tri (Tri Word)} {idx : Tri (BitVec 5)}
    {rest : Tri (List Bool)} {bits : Nat} {g : GroupCode} {b : BpRegs} {t : State}
    (ht : t = s.groupDecoded v p e idx rest bits g b) (hbits : groupBits s t = bits) (hsmall : bits ≤ 1000)
    (hsearch : SearchDone s t) (hich : g.isIch = true → IchLeft s t) (hunits : g.isIch = false → UnitsLeft s t) :
    GroupDone s t := by
  obtain ⟨hsg, hcur, hthis⟩ := flatRead_kept s
  have hzero : bits < 2 ^ 16 := by omega
  subst ht
  exact
    { status := rfl
      port := by rw [hbits]; rfl
      pos := by rw [hbits]; rfl
      coded := by
        rw [hbits]
        exact (BitVec.toNat_ofNat _ _).trans (Nat.mod_eq_of_lt hzero)
      sizePrev := by cases g <;> rfl
      pending := rfl
      lineOpen := rfl
      forceMpp := rfl
      prevIch := rfl
      sgPos := congrArg (· + 1) hsg
      flatCur := hcur
      flatThis := hthis
      flatKept := fun hs => (flatRead_absent fun hp => hs hp.1).trans (if_neg hs)
      flatAbsent := fun hs hp => (flatRead_absent hp).trans (if_pos hs)
      curElsewhere := fun c i hi => storeRead_groupWritten_elsewhere v p e c hi
      curGroup := fun c i low high => by
        rcases pixel_or_elsewhere s.hPos i with ⟨k, rfl⟩ | helse
        · rw [storeRead_decoded, groupWritten_cur, storeRead_writeThree_pixel]
          rfl
        · omega
      cache := cache_decoded
      search := hsearch
      ichGroup := hich
      units := hunits
      rest := ⟨rfl, rfl, rfl, rfl, rfl, rfl, rfl, rfl, rfl⟩ }

end Sys2Proof.Machine

namespace Sys2Proof.Machine

/-! ## `DEC_GROUP` -/

theorem flatWireAhead_length_le (s : State) : (flatWireAhead s).length ≤ 4 := by
  unfold flatWireAhead
  split_ifs
  · rw [recordWire_length]
    split <;> decide
  · exact Nat.zero_le _

/-- A ready decoder whose group is read does the bookkeeping and completes (44_entropy.md R375). -/
theorem exec_decGroup_decoded {s : State} (h : GroupReady s) (he : s.st.isEncoder = false)
    (hlen : 64 ≤ (s.io.source.get .i0).length) {v : Tri (Tri Sample)} {p e : Tri (Tri Word)} {idx : Tri (BitVec 5)}
    {rest : Tri (List Bool)} {n : Nat} {g : GroupCode}
    (hread : decodeUnits s.hPos s.afterFlat = .ok (n, g) (s.groupRead v p e idx rest)) (hsmall : n ≤ 900) :
    ∃ b, exec .decGroup s = .next (s.groupDecoded v p e idx rest ((flatWireAhead s).length + n) g b) ∧
      SearchDone s (s.groupDecoded v p e idx rest ((flatWireAhead s).length + n) g b) := by
  have hflat : decFlat s = .ok (flatWireAhead s).length s.afterFlat := decFlat_eq (by omega)
  have hfields := flatWireAhead_length_le s
  obtain ⟨b, hfinish, hsearch⟩ := finishGroup_decoded (v := v) (p := p) (e := e) (idx := idx) (rest := rest)
    (bits := (flatWireAhead s).length + n) (g := g) h (by omega)
  refine ⟨b, ?_, hsearch⟩
  rw [exec_decGroup_ready h he, decodeGroup_eq_units]
  have hbody : (do let nf ← decFlat; let r ← decodeUnits s.hPos; pure (nf, r) : Act (Nat × Nat × GroupCode)) s =
      .ok ((flatWireAhead s).length, n, g) (s.groupRead v p e idx rest) :=
    (act_bind_ok hflat).trans ((act_bind_ok hread).trans rfl)
  exact complete_ok ((act_bind_ok hbody).trans hfinish)

/-- The bits of the group stand at the front of the source, and the rest is left. -/
theorem source_afterFlat {s : State} (hlen : 64 ≤ (s.io.source.get .i0).length) {wire rest : Tri (List Bool)}
    (h : ∀ ss, s.afterFlat.io.source.get ss = wire.get ss ++ rest.get ss) (ss : Cpnt) :
    s.io.source.get ss = (⟨flatWireAhead s ++ wire.a0, wire.a1, wire.a2⟩ : Tri (List Bool)).get ss ++ rest.get ss := by
  have hss := h ss
  cases ss with
  | i0 =>
    have hluma : lumaBits s = wire.a0 ++ rest.a0 := hss
    rw [source_flatWireAhead (by omega), Tri.get_i0, hluma, List.append_assoc]
    rfl
  | i1 => exact hss
  | i2 => exact hss

/-! ### An ICH group -/

section Ich

variable {s : State} {ks : Tri Nat} {x : Tri (Tri Sample)} {rest : Tri (List Bool)} {bits : Nat} {b : BpRegs}

/-- The state after an ICH group is decoded. -/
def State.ichDecoded (s : State) (ks : Tri Nat) (x : Tri (Tri Sample)) (rest : Tri (List Bool)) (bits : Nat)
    (b : BpRegs) : State :=
  s.groupDecoded x (ichWords x) (Tri.fill (Tri.fill 0)) (triMap (BitVec.ofNat 5) ks) rest bits .ich b

theorem ichIdx_decoded (small : ∀ i, ks.get i < 32) (i : Pix) :
    ((s.ichDecoded ks x rest bits b).mode.ichIdx.get i).toNat = ks.get i := by
  have hk := small i
  cases i <;> exact (BitVec.toNat_ofNat _ _).trans (Nat.mod_eq_of_lt hk)

theorem ichWire_decoded (small : ∀ i, ks.get i < 32) :
    ichWire s (s.ichDecoded ks x rest bits b) = escapeWire s.mode.ichSelected (planOf s .i0) ks := by
  have hidx := ichIdx_decoded (s := s) (x := x) (rest := rest) (bits := bits) (b := b) small
  have h0 := hidx .i0
  have h1 := hidx .i1
  have h2 := hidx .i2
  simp only [Tri.get_i0, Tri.get_i1, Tri.get_i2] at h0 h1 h2
  rw [ichWire, h0, h1, h2, escapeWire, indexWire, List.append_assoc, List.append_assoc]
  rfl

theorem groupWire_ichDecoded (small : ∀ i, ks.get i < 32) :
    groupWire s (s.ichDecoded ks x rest bits b) =
      ⟨flatWireAhead s ++ escapeWire s.mode.ichSelected (planOf s .i0) ks, [], []⟩ := by
  have hich : (s.ichDecoded ks x rest bits b).mode.ichSelected = true := rfl
  rw [groupWire, if_pos hich, ichWire_decoded small, State.ichDecoded, flatWire_decoded]

/-- An ICH group leaves the samples its entries name (42_ich.md R275). -/
theorem ichLeft_decoded (small : ∀ i, ks.get i < 32) (hx : Looked s s.hPos ks x) :
    IchLeft s (s.ichDecoded ks x rest bits b) := by
  refine ⟨rfl, rfl, rfl, rfl, rfl, fun c i => ?_⟩
  rw [ichIdx_decoded small, State.ichDecoded, sampleAt_decoded]
  refine ⟨?_, ?_, hx i c⟩
  · cases c <;> cases i <;> rfl
  · have hlt := ((x.get c).get i).isLt
    have hword : ((ichWords x).get c).get i = BitVec.ofInt 32 (((x.get c).get i).toNat : Int) := by cases c <;> cases i <;> rfl
    refine (congrArg BitVec.toInt hword).trans (word_toInt ?_ ?_)
    · omega
    · omega

/-- An ICH group that names valid entries is decoded. -/
theorem decGroup_ich (h : GroupReady s) (he : s.st.isEncoder = false) (hlen : ∀ ss, 64 ≤ (s.io.source.get ss).length)
    (ahead : IndicesAhead s ks rest) (hvalid : ∀ i, ichValidAt s (ks.get i) = true) :
    ∃ x bits b, exec .decGroup s = .next (s.ichDecoded ks x rest bits b) ∧ GroupDone s (s.ichDecoded ks x rest bits b) := by
  obtain ⟨x, hx, hread⟩ := decodeUnits_indices h ahead hvalid
  have hsmall : (escapeWire s.mode.ichSelected (planOf s .i0) ks).length ≤ 900 := by
    have hmax := lumaMax_le s
    have hcode := unaryBits_length_le (escapeValue_le s.mode.ichSelected (planOf s .i0))
    rw [show prefixMax .i0 (planOf s .i0) = lumaMax s from rfl] at hcode
    rw [escapeWire, indexWire]
    simp only [List.length_append, toBits_length]
    rw [show prefixMax .i0 (planOf s .i0) = lumaMax s from rfl]
    omega
  have hfields := flatWireAhead_length_le s
  obtain ⟨b, hexec, hsearch⟩ := exec_decGroup_decoded h he (hlen .i0) hread hsmall
  refine ⟨x, _, b, hexec, groupDone_decoded rfl ?_ (by omega) hsearch (fun _ => ichLeft_decoded ahead.small hx) fun hn => ?_⟩
  · rw [groupBits]
    refine (congrArg (fun w : Tri (List Bool) => w.a0.length + w.a1.length + w.a2.length)
      (groupWire_ichDecoded ahead.small)).trans ?_
    simp
  · cases hn

end Ich

end Sys2Proof.Machine

namespace Sys2Proof.Machine

/-! ### A group of three units -/

section Predictions

variable {s t : State} {c : Cpnt} {u : UnitCode} {e p : Tri Int}

/-- The midpoint is that of the sample left of the group (40_prediction.md R189). -/
theorem midpointAt_eq {x : Int} (h : midpointOf s c s.hPos (unitLevel s c) = .ok x) : x = midpointAt s c := by
  obtain ⟨left, hleft, h⟩ := rd_bind_eq_ok.1 h
  cases h
  rw [midpointAt, sampleAt_of_ok hleft]

/-- A midpoint is held by a word. -/
theorem midpointOf_range {gs q : Nat} {x : Int} (h : midpointOf s c gs q = .ok x) : 0 ≤ x ∧ x < 2 ^ 17 := by
  obtain ⟨left, hleft, h⟩ := rd_bind_eq_ok.1 h
  cases h
  obtain ⟨low, high⟩ := curRead_isSample hleft
  have hdepth := pow_depth_le s c
  have hpos : (0 : Int) < 2 ^ (s.depth c - 1) := by positivity
  have hmod : 0 ≤ left % 2 ^ q := Int.emod_nonneg _ (by positivity)
  have hless : left % 2 ^ q ≤ left := by
    lift left to Nat using low
    exact_mod_cast Nat.mod_le left (2 ^ q)
  omega

/-- A word holds the prediction of a unit (10_state.md R48). -/
theorem UnitPredicted.word {gs : Nat} (h : UnitPredicted s t c gs u e p) (i : Pix) :
    (BitVec.ofInt 32 (p.get i)).toInt = p.get i := by
  have hrange : 0 ≤ p.get i ∧ p.get i < 2 ^ 17 := by
    cases hmpp : u.mpp with
    | true => exact midpointOf_range (h.mid hmpp i)
    | false =>
      obtain ⟨low, high⟩ := normPred_isSample (h.normal hmpp i)
      exact ⟨low, by omega⟩
  exact word_toInt (by omega) (by omega)

end Predictions

section Units

variable {s : State} {n : Tri Nat} {p e : Tri (Tri Int)} {rest : Tri (List Bool)} {bits : Nat} {b : BpRegs}

/-- The state after three units are decoded. -/
def State.unitsDecoded (s : State) (n : Tri Nat) (p e : Tri (Tri Int)) (rest : Tri (List Bool)) (bits : Nat)
    (b : BpRegs) : State :=
  s.groupDecoded (groupSamples s p e) (groupWords p) (groupWords e) s.mode.ichIdx rest bits
    (.units (triOf fun c => unitOf s c (n.get c))) b

theorem groupWords_get (p : Tri (Tri Int)) (c : Cpnt) (i : Pix) :
    ((groupWords p).get c).get i = BitVec.ofInt 32 ((p.get c).get i) := by cases c <;> cases i <;> rfl

theorem groupSamples_get (s : State) (p e : Tri (Tri Int)) (c : Cpnt) (i : Pix) :
    ((groupSamples s p e).get c).get i =
      BitVec.ofInt 16 (reconSample s c ((p.get c).get i) (dequantize ((e.get c).get i) (unitLevel s c))) := by
  rw [groupSamples, triOf_get]
  cases i <;> rfl

theorem mppUsed_decoded (c : Cpnt) :
    (s.unitsDecoded n p e rest bits b).size.mppUsed.get c = (n.get c == unitWidth s c) := by cases c <;> rfl

theorem residualsOf_decoded (fits : ∀ i, residualSize ((e.get c).get i) ≤ 16) :
    residualsOf (s.unitsDecoded n p e rest bits b) c = e.get c := by
  have hword (i : Pix) : (((groupWords e).get c).get i).toInt = (e.get c).get i :=
    (congrArg BitVec.toInt (groupWords_get e c i)).trans (word_residual (fits i))
  refine Tri.ext_get fun i => ?_
  cases i with
  | i0 => exact hword .i0
  | i1 => exact hword .i1
  | i2 => exact hword .i2

theorem sizeUsed_decoded (h : n.get c ≤ 16) :
    ((s.unitsDecoded n p e rest bits b).size.sizeUsed.get c).toNat = n.get c := by
  cases c <;> exact (BitVec.toNat_ofNat _ _).trans (Nat.mod_eq_of_lt (by simp only [triOf, unitOf]; omega))

/-- The predicted size of the next group's unit (44_entropy.md R377). -/
theorem predictedSize_decoded (c : Cpnt) (hwidth : unitWidth s c ≤ 16) (fits : ∀ i, residualSize ((e.get c).get i) ≤ 16) :
    ((s.unitsDecoded n p e rest bits b).size.predictedSize.get c).toNat =
      if (n.get c == unitWidth s c) = true then unitWidth s c else sizeOfThree (e.get c) := by
  have hread := residualsOf_decoded (s := s) (n := n) (p := p) (rest := rest) (bits := bits) (b := b) fits
  have hregister : (s.unitsDecoded n p e rest bits b).size.predictedSize.get c =
      BitVec.ofNat 5 (if (n.get c == unitWidth s c) = true then unitWidth s c
        else residualSize3 (residualsOf (s.unitsDecoded n p e rest bits b) c)) := by cases c <;> rfl
  have hsize : residualSize3 (e.get c) ≤ 16 := max_le (fits .i0) (max_le (fits .i1) (fits .i2))
  rw [hregister, hread, BitVec.toNat_ofNat, Nat.mod_eq_of_lt (by split <;> omega)]
  rfl

/-- A unit that was ahead is done: its sizes, its predictions and its samples (44_entropy.md R375, R377). -/
theorem unitDone_decoded (h : GroupReady s) (ahead : UnitsAhead s n e rest) {c : Cpnt}
    (hpredicted : UnitPredicted s (s.unitsWritten p e) c s.hPos (unitOf s c (n.get c)) (e.get c) (p.get c))
    (hsearch : SearchDone s (s.unitsDecoded n p e rest bits b)) : UnitDone s (s.unitsDecoded n p e rest bits b) c := by
  have hwidth : unitWidth s c ≤ 16 := (unitPlan_range (h.unitPlan_eq c)).2
  have hn := (ahead.high c).trans hwidth
  have fits (i : Pix) := (ahead.fits c i).trans hn
  have hresiduals := residualsOf_decoded (s := s) (n := n) (p := p) (rest := rest) (bits := bits) (b := b) fits
  have hpred (i : Pix) : (((s.unitsDecoded n p e rest bits b).scratch.pred.get c).get i).toInt = (p.get c).get i :=
    (congrArg BitVec.toInt (groupWords_get p c i)).trans (hpredicted.word i)
  obtain ⟨hclasses, hvectors, -⟩ := hsearch.kept
  have hreads : ReadsAs (s.unitsWritten p e) (s.unitsDecoded n p e rest bits b) c (s.hPos + 3) :=
    ⟨fun _ _ => rfl, fun _ => rfl, rfl, rfl, hclasses, hvectors⟩
  constructor
  case samples =>
    intro i
    rw [hpred, hresiduals, State.unitsDecoded, sampleAt_decoded, groupSamples_get, sample_reconSample]
    rfl
  case midpoint =>
    intro hmpp i
    rw [mppUsed_decoded] at hmpp
    rw [hpred]
    exact midpointAt_eq (hpredicted.mid hmpp i)
  case predicted =>
    intro hmpp i
    have hi := i.toNat_lt
    rw [mppUsed_decoded] at hmpp
    rw [hpred, hresiduals]
    have hnormal := (ReadsAs.normPred (hreads.mono (by omega)) h.vector _ _ _).trans (hpredicted.normal hmpp i)
    exact (classPrediction_of_normPred hnormal).symm
  case kind => rw [mppUsed_decoded, sizeUsed_decoded hn, beq_iff_eq]
  case size =>
    rw [sizeUsed_decoded hn]
    exact ⟨ahead.low c, ahead.high c⟩
  case fits =>
    rw [sizeUsed_decoded hn, hresiduals]
    exact max_le (ahead.fits c .i0) (max_le (ahead.fits c .i1) (ahead.fits c .i2))
  case feedback => rw [predictedSize_decoded c hwidth fits, mppUsed_decoded, hresiduals]

/-- The bits of a decoded unit are those that were ahead (30_encoding.md R152, R154). -/
theorem unitWire_decoded {c : Cpnt} (hn : n.get c ≤ 16) (fits : ∀ i, residualSize ((e.get c).get i) ≤ 16) :
    unitWire s (s.unitsDecoded n p e rest bits b) c =
      codeWire c s.mode.ichSelected (unitOf s c (n.get c)) (e.get c) := by
  rw [unitWire, sizeUsed_decoded hn, residualsOf_decoded fits]
  dsimp only
  rw [codeWire, residualWire, List.append_assoc, List.append_assoc]
  refine congrArg (· ++ _) ?_
  split_ifs with hc
  · subst hc
    rfl
  · rw [prefixValue_chroma hc, prefixMax_chroma hc]
    rfl

/-- What a group of three units leaves. -/
theorem unitsLeft_decoded (h : GroupReady s) (ahead : UnitsAhead s n e rest)
    (hdone : ∀ c, UnitDone s (s.unitsDecoded n p e rest bits b) c) : UnitsLeft s (s.unitsDecoded n p e rest bits b) := by
  have hn (c : Cpnt) : n.get c ≤ 16 := (ahead.high c).trans (unitPlan_range (h.unitPlan_eq c)).2
  have hused (c : Cpnt) := sizeUsed_decoded (s := s) (p := p) (e := e) (rest := rest) (bits := bits) (b := b) (hn c)
  have h0 := hused .i0
  have h1 := hused .i1
  have h2 := hused .i2
  have n0 := hn .i0
  have n1 := hn .i1
  have n2 := hn .i2
  simp only [Tri.get_i0, Tri.get_i1, Tri.get_i2] at h0 h1 h2 n0 n1 n2
  refine ⟨rfl, rfl, ?_, hdone⟩
  rw [h0, h1, h2]
  refine (BitVec.toNat_ofNat _ _).trans ((Nat.mod_eq_of_lt ?_).trans ?_) <;> simp only [triOf, unitOf, Tri.get] <;> omega

theorem groupWire_unitsDecoded (h : GroupReady s) (ahead : UnitsAhead s n e rest) :
    groupWire s (s.unitsDecoded n p e rest bits b) =
      ⟨flatWireAhead s ++ (unitsWire s.mode.ichSelected (triOf fun c => unitOf s c (n.get c)) e).a0,
        (unitsWire s.mode.ichSelected (triOf fun c => unitOf s c (n.get c)) e).a1,
        (unitsWire s.mode.ichSelected (triOf fun c => unitOf s c (n.get c)) e).a2⟩ := by
  have hn (c : Cpnt) : n.get c ≤ 16 := (ahead.high c).trans (unitPlan_range (h.unitPlan_eq c)).2
  have hunits : ¬ (s.unitsDecoded n p e rest bits b).mode.ichSelected = true := Bool.false_ne_true
  have hwire (c : Cpnt) := unitWire_decoded (s := s) (p := p) (rest := rest) (bits := bits) (b := b) (hn c) fun i =>
    (ahead.fits c i).trans (hn c)
  rw [groupWire, if_neg hunits, hwire, hwire, hwire, State.unitsDecoded, flatWire_decoded]
  rfl

/-- A unit is sent in at most 65 bits. -/
theorem codeWire_length_le (l : Bool) {c : Cpnt} {u : UnitCode} (hs : u.s ≤ u.plan.m) (hm : u.plan.m ≤ 16) (e : Tri Int) :
    (codeWire c l u e).length ≤ 65 := by
  have hcode := unaryBits_length_le (prefixValue_le c l hs)
  have hmax : prefixMax c u.plan ≤ 17 := by
    unfold prefixMax
    split <;> omega
  rw [codeWire, List.length_append, residualWire_length]
  omega

/-- Three units that are ahead are decoded. -/
theorem decGroup_units (h : GroupReady s) (he : s.st.isEncoder = false) (hlen : ∀ ss, 64 ≤ (s.io.source.get ss).length)
    (ahead : UnitsAhead s n e rest) :
    ∃ p bits b, exec .decGroup s = .next (s.unitsDecoded n p e rest bits b) ∧
      GroupDone s (s.unitsDecoded n p e rest bits b) := by
  obtain ⟨p, hpredicted, hread⟩ := decodeUnits_units h he ahead
  have hlength (c : Cpnt) : (codeWire c s.mode.ichSelected (unitOf s c (n.get c)) (e.get c)).length ≤ 65 :=
    codeWire_length_le _ (ahead.high c) (unitPlan_range (h.unitPlan_eq c)).2 _
  have h0 := hlength .i0
  have h1 := hlength .i1
  have h2 := hlength .i2
  simp only [Tri.get_i0, Tri.get_i1, Tri.get_i2] at h0 h1 h2
  have hfields := flatWireAhead_length_le s
  obtain ⟨b, hexec, hsearch⟩ := exec_decGroup_decoded h he (hlen .i0) hread (by omega)
  refine ⟨p, _, b, hexec, groupDone_decoded rfl ?_ (by omega) hsearch (fun hn => ?_) fun _ => ?_⟩
  · rw [groupBits]
    refine (congrArg (fun w : Tri (List Bool) => w.a0.length + w.a1.length + w.a2.length)
      (groupWire_unitsDecoded h ahead)).trans ?_
    rw [List.length_append, unitsWire]
    simp only [triOf, Tri.get]
    omega
  · cases hn
  · exact unitsLeft_decoded h ahead fun c => unitDone_decoded h ahead (hpredicted c) hsearch

end Units

/-- Settles O46: the bits ahead are an ICH group or three units, and each is read, reconstructed and booked. -/
theorem decGroupCompletes : Obligations.DecGroupCompletes := by
  intro s h he hlen hvalid
  by_cases hesc : escapeAhead s
  · obtain ⟨ks, rest, ahead⟩ := indices_ahead h hlen hesc
    obtain ⟨x, bits, b, hexec, hdone⟩ := decGroup_ich h he hlen ahead fun i => ahead.ahead i ▸ hvalid hesc i
    refine ⟨_, hexec, hdone, ?_, rfl, rfl, rfl, flatRead_present, iff_of_true rfl hesc, fun _ i => ?_⟩
    · rw [groupWire_ichDecoded ahead.small]
      exact source_afterFlat (hlen .i0) ahead.source
    · rw [ichIdx_decoded ahead.small, ahead.ahead]
  · obtain ⟨n, e, rest, ahead⟩ := units_ahead h hlen hesc
    obtain ⟨p, bits, b, hexec, hdone⟩ := decGroup_units h he hlen ahead
    refine ⟨_, hexec, hdone, ?_, rfl, rfl, rfl, flatRead_present, iff_of_false Bool.false_ne_true hesc, fun hn => ?_⟩
    · rw [groupWire_unitsDecoded h ahead]
      exact source_afterFlat (hlen .i0) ahead.source
    · exact absurd hn hesc

end Sys2Proof.Machine

namespace Sys2Proof.Machine

/-! ## Housekeeping, configuration and the order of commands -/

/-! ### Words, `NOP` and the observers -/

/-- Settles O3: the fields of each word are those of its command. -/
theorem specWordsDecode : Obligations.SpecWordsDecode := by
  refine ⟨?_, ?_, ?_, ?_, ?_⟩ <;> exact decode_eq_ok_iff.2 (by decide)

/-- Settles O12: `NOP` is run to its end even in the halted block, and its text is empty. -/
theorem nopKeepsState : Obligations.NopKeepsState := fun s => complete_ok (act_pure () s)

/-- Every fault entry is that of a kind and an information word (60_exceptions.md R442). -/
theorem enterFault_eq_afterFault (s : State) (r : Raise) : s.enterFault r = s.afterFault r.kind r.info.toInt := by
  rw [← enterFault_raising, raising, BitVec.ofInt_toInt]

/-- Settles O11: of the effects of a command, an observer has only those that hold the state, fault, or write `res`. -/
theorem observersWriteOnlyResult : Obligations.ObserversWriteOnlyResult := by
  intro i s t hobserves h
  cases exec_effect i h with
  | hold => exact .inl rfl
  | result _ _ v => exact .inr (.inl ⟨v, rfl⟩)
  | fault _ _ r => exact .inr (.inr ⟨r.kind, r.info.toInt, enterFault_eq_afterFault s r⟩)
  | groupCut _ group | groupUnfit _ _ group | group _ _ group =>
    rcases group with rfl | rfl <;> simp [rowOf] at hobserves
  | _ => simp [rowOf] at hobserves

/-! ### `CFG_WR` -/

section CfgWr

variable {s : State} {idx : Nat}

theorem exec_cfgWr_locked (active : s.st.sliceActive = true) (idx : Nat) :
    exec (.cfgWr idx) s = .next (s.afterFault .cfgLocked idx) :=
  complete_demand_unmet (s := s) (by simp [active])

/-- Without an active slice `CFG_WR` writes, and then leaves no configuration checked (45_sequencing.md R411). -/
theorem exec_cfgWr_writes {t : State} (free : s.st.sliceActive = false) (h : writeConfig idx s = .ok () t) :
    exec (.cfgWr idx) s = .next t.unchecked :=
  (complete_demand_met (s := s) (by simp [free])).trans
    ((complete_bind_ok h).trans (complete_ok (act_update State.unchecked t)))

theorem exec_cfgWr_raises {k : FaultKind} {info : Int} (free : s.st.sliceActive = false)
    (h : writeConfig idx s = .error (raising k info) s) : exec (.cfgWr idx) s = .next (s.afterFault k info) :=
  (complete_demand_met (s := s) (by simp [free])).trans (complete_bind_raise h)

theorem demandOpA_met {top : Int} (low : 0 ≤ s.port.opA.toInt) (high : s.port.opA.toInt ≤ top) :
    demandOpA top s = .ok () s := act_demand_pos (decide_eq_true ⟨low, high⟩)

theorem demandOpA_unmet {top : Int} (h : s.port.opA.toInt < 0 ∨ top < s.port.opA.toInt) :
    demandOpA top s = .error (raising .range s.port.opA.toInt) s := by
  have hno : ¬ (0 ≤ s.opA ∧ s.opA ≤ top) := by
    rw [State.opA]
    omega
  exact act_demand_neg (decide_eq_false hno)

/-- The text of a byte write (45_sequencing.md R411). -/
theorem writeConfig_byte (image : idx ≤ 0x007F) :
    writeConfig idx s =
      (demandOpA 255 >>= fun _ => update fun s => s.withMem (memWrite s.mem idx (clearReserved idx s.opAByte))) s := by
  rw [writeConfig, if_pos image]

/-- The text of a threshold write (45_sequencing.md R411). -/
theorem writeConfig_thresh :
    writeConfig 0x0100 s =
      (demandOpA 65535 >>= fun _ => update fun s => s.withFlatThresh (BitVec.ofInt 16 s.opA)) s := rfl

theorem writeConfig_badIndex (above : 0x007F < idx) (other : idx ≠ 0x0100) :
    writeConfig idx s = .error (raising .badIndex idx) s := by
  rw [writeConfig, if_neg (Nat.not_le.2 above), if_neg other, act_raise]

theorem opAByte_getLsbD (s : State) {b : Nat} (hb : b < 8) : s.opAByte.getLsbD b = s.port.opA.getLsbD b := by
  have hbyte : s.opAByte = s.port.opA.setWidth 8 := BitVec.eq_of_toInt_eq (by
    rw [State.opAByte, State.opA, BitVec.toInt_ofInt, BitVec.toInt_setWidth, BitVec.toInt_eq_toNat_bmod,
      Int.bmod_bmod_of_dvd (by decide)])
  simp [hbyte, hb]

end CfgWr

/-- Settles O13: what `CFG_WR` writes or raises, by the lock, the index and the operand. -/
theorem cfgWrRule : Obligations.CfgWrRule := by
  intro s idx hwf
  refine ⟨fun active => exec_cfgWr_locked active idx, fun free image low high => ?_, fun free image hrange => ?_,
    fun free hidx low high => ?_, fun free hidx hrange => ?_,
    fun free above other => exec_cfgWr_raises free (writeConfig_badIndex above other)⟩
  · refine ⟨memWrite s.mem idx (clearReserved idx s.opAByte), ?_, fun a ha => ?_, fun b hb => ?_⟩
    · exact exec_cfgWr_writes free ((writeConfig_byte image).trans (act_bind_ok (demandOpA_met low high)))
    · rw [memRead_memWrite _ _ _ _ hwf, if_neg ha]
    · rw [memRead_memWrite _ _ _ _ hwf, if_pos rfl, clearReserved_getLsbD _ _ hb, opAByte_getLsbD s hb]
  · exact exec_cfgWr_raises free ((writeConfig_byte image).trans (act_bind_error (demandOpA_unmet hrange)))
  · subst hidx
    exact exec_cfgWr_writes free (writeConfig_thresh.trans (act_bind_ok (demandOpA_met low high)))
  · subst hidx
    exact exec_cfgWr_raises free (writeConfig_thresh.trans (act_bind_error (demandOpA_unmet hrange)))

/-! ### `CFG_CHECK` -/

theorem exec_cfgCheck_pass {s : State} (free : s.st.sliceActive = false) (h : firstFailing (cfgTests s) = none) :
    exec .cfgCheck s = .next s.checkPassed := by
  refine (complete_demand_met (s := s) (by simp [free])).trans ((complete_bind_ok (act_look _ s)).trans ?_)
  rw [h]
  rfl

theorem exec_cfgCheck_fail {s : State} {t : CfgTest} (free : s.st.sliceActive = false)
    (h : firstFailing (cfgTests s) = some t) : exec .cfgCheck s = .next (s.checkFailed.afterFault t.kind t.bit) := by
  refine (complete_demand_met (s := s) (by simp [free])).trans ((complete_bind_ok (act_look _ s)).trans ?_)
  rw [h]
  exact (complete_bind_ok (act_update _ s)).trans (complete_raise _ _ s.checkFailed)

/-- Settles O15: no test of a legal configuration fails. -/
theorem cfgCheckPassesLegal : Obligations.CfgCheckPassesLegal := fun s free legal =>
  exec_cfgCheck_pass free ((firstFailing_eq_none_iff s).2 legal)

/-- A test of the model is the spec's check: it passes alike, raises its kind and records a field of it. -/
structure CfgTest.Checks (t : CfgTest) (c : FieldCheck) : Prop where
  ok : t.ok = c.ok
  kind : t.kind = c.kind
  field : ∃ f ∈ c.fields, t.bit = f.first

theorem rangeTest_checks (f : PpsField) {p q : Bool} (h : p = q) : (rangeTest f p).Checks ⟨q, .cfgRange, [f]⟩ :=
  ⟨h, rfl, f, by simp, rfl⟩

theorem orderTest_checks (f : PpsField) {p q : Bool} (h : p = q) : (orderTest f p).Checks ⟨q, .cfgOrder, [f]⟩ :=
  ⟨h, rfl, f, by simp, rfl⟩

/-- A failing pair records one of its two fields, whichever the free choice picks (log entry 4). -/
theorem pairTest_checks (f f' : PpsField) (p : Bool) : (pairTest f f' p).Checks ⟨p, .cfgOrder, [f, f']⟩ := by
  refine ⟨rfl, rfl, if Config.laterOfPair f.first then f' else f, ?_, ?_⟩ <;>
    cases h : Config.laterOfPair f.first <;> simp [pairTest, h]

/-- Points 1 to 11 of 45_sequencing.md R413. -/
theorem cfgTests_fieldChecks (s : State) :
    List.Forall₂ CfgTest.Checks (cfgTests1 s ++ cfgTests2 s) (fieldChecks s) :=
  .cons (rangeTest_checks _ rfl) <| .cons (rangeTest_checks _ rfl) <|
    .cons (rangeTest_checks _ (by simp [Bool.or_assoc, beq_eq_decide])) <| .cons (rangeTest_checks _ rfl) <|
    .cons ⟨rfl, rfl, _, List.mem_singleton_self _, rfl⟩ <| .cons (rangeTest_checks _ rfl) <|
    .cons (rangeTest_checks _ rfl) <| .cons (rangeTest_checks _ rfl) <| .cons (rangeTest_checks _ rfl) <|
    .cons (rangeTest_checks _ rfl) <| .cons (rangeTest_checks _ rfl) <| .cons (rangeTest_checks _ rfl) <|
    .cons (rangeTest_checks _ rfl) <| .cons (orderTest_checks _ rfl) <| .cons (orderTest_checks _ rfl) <|
    .cons (rangeTest_checks _ rfl) <| .cons (rangeTest_checks _ rfl) .nil

/-- Points 12 and 13 of 45_sequencing.md R413. -/
theorem cfgTests_tableChecks (s : State) :
    List.Forall₂ CfgTest.Checks (cfgTests3 s ++ (List.range 15).flatMap (cfgTestsRange s)) (tableChecks s) := by
  refine List.rel_append (List.rel_append ?_ (.cons (orderTest_checks _ rfl) .nil))
    (List.rel_flatMap (R := Eq) (List.forall₂_refl _) ?_)
  · rw [List.forall₂_map_left_iff, List.forall₂_map_right_iff, List.forall₂_same]
    exact fun i _ => pairTest_checks _ _ _
  · rintro j _ rfl
    refine List.rel_append (.cons (rangeTest_checks _ rfl) (.cons (orderTest_checks _ rfl) .nil)) ?_
    by_cases hj : j = 0
    · simp [hj]
    · simp only [hj, if_false]
      exact .cons (pairTest_checks _ _ _) (.cons (pairTest_checks _ _ _) .nil)

/-- The tests of `CFG_CHECK` are the spec's checks, in its order (45_sequencing.md R413). -/
theorem cfgTests_checks (s : State) :
    List.Forall₂ CfgTest.Checks (cfgTests s) (fieldChecks s ++ tableChecks s) := by
  rw [cfgTests, List.append_assoc]
  exact List.rel_append (cfgTests_fieldChecks s) (cfgTests_tableChecks s)

/-- The first failing test is the first failing check. -/
theorem firstFailing_checks {ts : List CfgTest} {cs : List FieldCheck} (h : List.Forall₂ CfgTest.Checks ts cs)
    {t : CfgTest} (ht : firstFailing ts = some t) :
    ∃ before after c, cs = before ++ c :: after ∧ (∀ b ∈ before, b.ok = true) ∧ c.ok = false ∧ t.Checks c := by
  induction h with
  | nil => cases ht
  | @cons u c ts cs hu _ ih =>
    cases hok : u.ok with
    | false =>
      have hut : u = t := by simpa [firstFailing, hok] using ht
      exact ⟨[], cs, c, rfl, by simp, hu.ok.symm.trans hok, hut ▸ hu⟩
    | true =>
      obtain ⟨before, after, d, rfl, hbefore, hd, htd⟩ := ih (by simpa [firstFailing, hok] using ht)
      exact ⟨c :: before, after, d, rfl, List.forall_mem_cons.2 ⟨hu.ok.symm.trans hok, hbefore⟩, hd, htd⟩

/-- Settles O16: the tests that fail first and the checks that fail first are the same. -/
theorem cfgCheckRefusesIllegal : Obligations.CfgCheckRefusesIllegal := by
  intro s free illegal
  obtain ⟨t, ht⟩ := Option.ne_none_iff_exists'.1 (mt (firstFailing_eq_none_iff s).1 illegal)
  obtain ⟨before, after, c, hsplit, hbefore, hc, hchecks⟩ := firstFailing_checks (cfgTests_checks s) ht
  obtain ⟨f, hf, hbit⟩ := hchecks.field
  refine ⟨before, after, c, f, hsplit, hbefore, hc, hf, ?_⟩
  rw [exec_cfgCheck_fail free ht, hchecks.kind, hbit]
  rfl

end Sys2Proof.Machine

namespace Sys2Proof.Machine

/-! ## Slices and lines -/

/-! ### `SLICE_START` -/

/-- Without a checked configuration `SLICE_START` leaves the fault state and then faults itself (60_exceptions.md
R445). -/
theorem exec_sliceStart_unchecked {s : State} (free : s.st.sliceActive = false) (invalid : s.st.cfgValid = false)
    (d : Bool) : exec (.sliceStart d) s = .next (s.leaveFault.afterFault .sequence 0) :=
  (complete_demand_met (s := s) (by simp [free])).trans
    ((complete_bind_ok (act_update _ s)).trans (complete_demand_unmet (s := s.leaveFault) invalid))

theorem exec_sliceStart_checked {s : State} (free : s.st.sliceActive = false) (valid : s.st.cfgValid = true)
    (d : Bool) : exec (.sliceStart d) s = .next (s.sliceBegun d) :=
  (complete_demand_met (s := s) (by simp [free])).trans
    ((complete_bind_ok (act_update _ s)).trans ((complete_demand_met (s := s.leaveFault) valid).trans
      (complete_ok (act_update _ _))))

/-- The rate registers at slice start hold the values of the configuration (70_reset_and_hazards.md R484). -/
theorem sliceBegun_rc (s : State) (d : Bool) :
    (s.sliceBegun d).rc.rcXformScale.toNat = s.cfg .initialScaleValue ∧
      (s.sliceBegun d).rc.rcXformOffsetFx.toInt = ((s.cfg .initialOffset : Int) - s.cfg .rcModelSize) * 2048 ∧
      (s.sliceBegun d).rc.rcModelFullness.toInt = -(s.cfg .rcModelSize : Int) := by
  have hscale : s.cfg .initialScaleValue < 2 ^ 6 := cfg_lt s _
  have hoffset : s.cfg .initialOffset < 2 ^ 16 := cfg_lt s _
  have hmodel : s.cfg .rcModelSize < 2 ^ 16 := cfg_lt s _
  have hfx : -2 ^ 31 ≤ ((s.cfg .initialOffset : Int) - s.cfg .rcModelSize) * 2048 ∧
      ((s.cfg .initialOffset : Int) - s.cfg .rcModelSize) * 2048 < 2 ^ 31 := by omega
  have hfull : -2 ^ 31 ≤ -(s.cfg .rcModelSize : Int) ∧ -(s.cfg .rcModelSize : Int) < 2 ^ 31 := by omega
  exact ⟨Nat.mod_eq_of_lt hscale, word_toInt hfx.1 hfx.2, word_toInt hfull.1 hfull.2⟩

/-- A window slot at slice start costs nothing (10_state.md R47). -/
theorem bpCost_zero_getD (j : Nat) : BpCost.zero.bp.getD j 0 = 0 :=
  List.getElem?_getD_replicate_default_eq 0 8 j

/-- Settles O17: `SLICE_START` is refused after leaving the fault state, or begins the slice register by register. -/
theorem sliceStartRule : Obligations.SliceStartRule := by
  intro s d free
  refine ⟨fun invalid => exec_sliceStart_unchecked free invalid d, fun valid => ?_⟩
  obtain ⟨hscale, hoffset, hmodel⟩ := sliceBegun_rc s d
  have hempty (c : Cpnt) (i : Nat) : storeRead (LineBuf.empty.get c) i = none := by simp [LineBuf.empty]
  have hzero (c : Cpnt) (i : Pix) : ((Tri.fill (Tri.fill (0 : Word))).get c).get i = 0 := by
    rw [Tri.get_fill, Tri.get_fill]
  refine ⟨s.sliceBegun d, exec_sliceStart_checked free valid d, rfl, rfl, rfl, rfl, hscale, hoffset, hmodel, rfl, rfl,
    rfl, rfl, rfl, rfl, rfl, rfl, fun g hg => ?_, fun g hg => ?_, fun k j => ?_, rfl, rfl, rfl, rfl,
    fun c i => ⟨hzero c i, hzero c i⟩, fun c i => ⟨hempty c i, hempty c i, hempty c i⟩, ichClear_getD_valid s.ich,
    rfl, rfl, rfl, rfl, rfl, rfl⟩
  · exact ⟨fillPrefix_getD _ _ _ _ hg, fillPrefix_getD _ _ _ _ hg, fillPrefix_getD _ _ _ _ hg,
      fillPrefix_getD _ _ _ _ hg⟩
  · exact ⟨fillPrefix_getD_of_le _ _ _ _ hg, fillPrefix_getD_of_le _ _ _ _ hg, fillPrefix_getD_of_le _ _ _ _ hg,
      fillPrefix_getD_of_le _ _ _ _ hg⟩
  · rw [show (s.sliceBegun d).bp.window.get k = BpCost.zero from Tri.get_fill _ k]
    exact ⟨bpCost_zero_getD j, rfl⟩

/-! ### `LINE_START` -/

theorem exec_lineStart_opens {s : State} (hrun : s.running) (active : s.st.sliceActive = true)
    (closed : s.mode.lineOpen = false) : exec .lineStart s = .next s.lineIch.openLine :=
  (unlessFaulted_needsSlice hrun (.inl active)).trans
    ((complete_demand_met (by simp [active, closed])).trans (complete_ok (act_update _ s)))

/-- At a line start the cache alone can change before the line is opened (42_ich.md R271). -/
theorem lineIch_eq (s : State) : s.lineIch = s.withIch s.lineIch.ich := by
  unfold State.lineIch
  split <;> rfl

/-- Where the cache is cleared in part: below the first line of a slice narrower than the picture (42_ich.md R271). -/
theorem lineIch_below {s : State} (below : 1 ≤ s.vPos) (narrow : s.cfg .sliceWidth < s.cfg .picWidth) :
    s.lineIch.ich = ichPartialClear 25 s.ich := by
  have hslots : ichSlots s = 25 := if_neg (Nat.one_le_iff_ne_zero.1 below)
  rw [State.lineIch, if_pos ⟨below, decide_eq_true narrow⟩, hslots]
  rfl

theorem lineIch_kept {s : State} (h : s.vPos = 0 ∨ s.cfg .picWidth ≤ s.cfg .sliceWidth) :
    s.lineIch.ich = s.ich := by
  have hno : ¬ (1 ≤ s.vPos ∧ s.multiSlice = true) := by
    simp only [State.multiSlice, decide_eq_true_eq]
    omega
  rw [State.lineIch, if_neg hno]

/-- The partial clear keeps the entries from n on (42_ich.md R271). -/
theorem ichPartialClear_getD_of_le {n k : Nat} {l : List IchEntry} (hk : n ≤ k) (hlen : n ≤ l.length) :
    (ichPartialClear n l).getD k IchEntry.empty = l.getD k IchEntry.empty := by
  have htake : (ichClear (l.take n)).length = n := by simpa using hlen
  rw [ichPartialClear, List.getD_append_right _ _ _ _ (by omega), htake, List.getD_eq_getElem?_getD,
    List.getElem?_drop, Nat.add_sub_cancel' hk, List.getD_eq_getElem?_getD]

/-- Settles O18: the line is opened on the cache of the line start. -/
theorem lineStartOpensLine : Obligations.LineStartOpensLine := by
  intro s hrun active closed hlen
  refine ⟨s.lineIch.ich, ?_, lineIch_kept, fun below narrow => ?_⟩
  · rw [exec_lineStart_opens hrun active closed, lineIch_eq]
    rfl
  · rw [lineIch_below below narrow]
    exact ⟨fun k hk => ichPartialClear_getD_valid hk (by omega), fun k hk => ichPartialClear_getD_of_le hk (by omega)⟩

/-! ### The order of commands -/

/-- Settles O20: each command demands its place in the order before anything else of its text runs. -/
theorem outOfOrderFaults : Obligations.OutOfOrderFaults := by
  intro s hrun active
  refine ⟨fun h => ?_, fun hopen => ?_, fun hnone => ?_, fun h => ?_⟩
  · refine (unlessFaulted_needsSlice hrun (.inl active)).trans (complete_demand_unmet ?_)
    rcases h with h | h | h <;> simp [h]
  · exact (unlessFaulted_needsSlice hrun (.inl active)).trans (complete_demand_unmet (by simp [hopen]))
  · exact (unlessFaulted_needsSlice hrun (.inl active)).trans (complete_demand_unmet hnone)
  · have hready {f : Unit → Act Unit} : complete (groupReady >>= f) s = .next (s.afterFault .sequence 0) := by
      refine complete_demand_unmet ?_
      rcases h with h | h | h <;> simp [h]
    refine ⟨fun henc => (unlessFaulted_encoderOnly hrun ⟨active, henc⟩).trans hready, fun hdec => ?_⟩
    rw [show exec .decGroup s = _ from unlessFaulted_running hrun]
    exact (complete_demand_met (by simp [active, hdec])).trans hready

/-! ### The reduction -/

/-- Rounding x to a multiple of the step `2 * half`, at most the last one below `n`: its error and its saturation
(45_sequencing.md R417). -/
theorem reduceStep_bounds {x m n half : Nat} (hm : 1 ≤ m) (hn : m * (2 * half) = n) (hx : x < n) :
    let r := min ((x + half) / (2 * half)) (m - 1) * (2 * half)
    r ≤ x + half ∧ (x ≤ r + half ∨ r + 2 * half = n) := by
  have hpos : 0 < 2 * half := Nat.pos_of_ne_zero fun h => by simp [h] at hn; omega
  have hlast : (m - 1) * (2 * half) + 2 * half = n := by
    rw [← Nat.succ_mul, Nat.succ_eq_add_one, Nat.sub_add_cancel hm, hn]
  have hlow : (x + half) / (2 * half) * (2 * half) ≤ x + half := Nat.div_mul_le_self _ _
  have hhigh : x + half < (x + half) / (2 * half) * (2 * half) + 2 * half := Nat.lt_div_mul_add hpos
  dsimp only
  rcases Nat.le_total ((x + half) / (2 * half)) (m - 1) with h | h
  · have htop := Nat.mul_le_mul_right (2 * half) h
    rw [Nat.min_eq_left h]
    omega
  · have htop := Nat.mul_le_mul_right (2 * half) h
    rw [Nat.min_eq_right h]
    omega

theorem reduceSample_eq_self {s : State} {c : Cpnt} (h : s.depth c - s.lbd c = 0) (x : Int) :
    reduceSample s c x = x := if_pos h

/-- The reduction of a sample in natural numbers (45_sequencing.md R417). -/
theorem reduceSample_eq_step {s : State} {c : Cpnt} (h : 0 < s.depth c - s.lbd c) (x : Nat) :
    reduceSample s c x =
      (min ((x + 2 ^ (s.depth c - s.lbd c - 1)) / 2 ^ (s.depth c - s.lbd c))
        (2 ^ (s.depth c - (s.depth c - s.lbd c)) - 1) * 2 ^ (s.depth c - s.lbd c) : Nat) := by
  rw [reduceSample, if_neg h.ne', shr]
  push_cast [Nat.one_le_two_pow]
  rfl

/-- A reduced sample is a multiple of the step, within half a step of the sample or the last one (45_sequencing.md
R417). -/
theorem reduceSample_step {s : State} {c : Cpnt} {k x : Nat} (hk : s.depth c - s.lbd c = k + 1)
    (hx : x ≤ s.maxval c) : ∃ r : Nat, reduceSample s c x = r ∧ 2 ^ (k + 1) ∣ r ∧ r ≤ x + 2 ^ k ∧
      (x ≤ r + 2 ^ k ∨ r + 2 ^ (k + 1) = s.maxval c + 1) := by
  have hstep := reduceSample_eq_step (s := s) (c := c) (by omega) x
  have hall : 2 ^ (s.depth c - (k + 1)) * 2 ^ (k + 1) = s.maxval c + 1 := by
    rw [← pow_add, Nat.sub_add_cancel (by omega), State.maxval, Nat.sub_add_cancel Nat.one_le_two_pow]
  rw [hk, Nat.add_sub_cancel] at hstep
  rw [pow_succ'] at hstep hall ⊢
  exact ⟨_, hstep, Nat.dvd_mul_left _ _, reduceStep_bounds Nat.one_le_two_pow hall (Nat.lt_succ_of_le hx)⟩

/-- Settles O21: below the line-buffer depth the reduction rounds to a step and saturates at the last one. -/
theorem reduceRule : Obligations.ReduceRule := by
  intro s c x hx
  dsimp only
  obtain ⟨low, high⟩ := reduceSample_range s c (x := x) (by positivity) (by exact_mod_cast hx)
  refine ⟨fun h => reduceSample_eq_self h x, fun h => reduceSample_eq_step h x, low, high, ?_⟩
  cases hk : s.depth c - s.lbd c with
  | zero =>
    rw [reduceSample_eq_self hk]
    omega
  | succ k =>
    obtain ⟨r, hr, multiple, above, below⟩ := reduceSample_step hk hx
    have hpow : (2 : Int) ^ (k + 1) = 2 * (2 ^ k : Nat) := by push_cast; ring
    rw [hr]
    refine ⟨by exact_mod_cast multiple, ?_⟩
    rw [pow_succ'] at below
    rw [hpow]
    omega

end Sys2Proof.Machine

namespace Sys2Proof.Machine

/-! ### `LINE_END` -/

section LineEnd

variable {s : State} {x : Cpnt → Nat → Sample}

/-- `b'` is `b` with the reduced samples of the line `x` in the elements `p`, and nothing else changed (45_sequencing.md
R418). -/
structure Reduced (s : State) (x : Cpnt → Nat → Sample) (p : Cpnt → Nat → Prop) (b b' : LineBuf) : Prop where
  copied : ∀ c i, p c i → storeRead (b'.get c) i = some (BitVec.ofInt 16 (reduceSample s c (x c i).toNat))
  kept : ∀ c i, ¬ p c i → storeRead (b'.get c) i = storeRead (b.get c) i

/-- A piece of the copy: on the state with any `prev`, it answers and reduces the elements `p` into it. -/
def Reduces (s : State) (x : Cpnt → Nat → Sample) (p : Cpnt → Nat → Prop) (m : Act Unit) : Prop :=
  ∀ b, ∃ b', m (s.withPrev b) = .ok () (s.withPrev b') ∧ Reduced s x p b b'

/-- Pieces that each reduce some elements reduce, in sequence, all of these. -/
theorem reduces_forAll {α : Type} {f : α → Act Unit} {p : α → Cpnt → Nat → Prop} {l : List α}
    (h : ∀ a ∈ l, Reduces s x (p a) (f a)) : Reduces s x (fun c i => ∃ a ∈ l, p a c i) (forAll f l) := by
  induction l with
  | nil => exact fun b => ⟨b, rfl, by simp, fun _ _ _ => rfl⟩
  | cons a l ih =>
    intro b
    obtain ⟨b1, hfirst, copied, kept⟩ := h a List.mem_cons_self b
    obtain ⟨b2, hrest, copied', kept'⟩ := ih (fun a ha => h a (List.mem_cons_of_mem _ ha)) b1
    refine ⟨b2, (act_bind_ok hfirst).trans hrest, fun c i hp => ?_, fun c i hp => ?_⟩
    · by_cases hlater : ∃ a ∈ l, p a c i
      · exact copied' c i hlater
      · rw [kept' c i hlater]
        exact copied c i (by simpa [hlater] using hp)
    · simp only [List.exists_mem_cons_iff, not_or] at hp
      rw [kept' c i hp.2, kept c i hp.1]

theorem reduces_cell {c : Cpnt} {i : Nat} (h : storeRead (s.cur.get c) i = some (x c i)) :
    Reduces s x (fun c' i' => c' = c ∧ i' = i) (reduceCell c i) := by
  intro b
  have hread : readCell .cur (s.withPrev b).cur c i = .ok ((x c i).toNat : Int) := readCell_some h
  refine ⟨_, (act_bind_ok (act_sense_ok (f := fun s => readCell .cur s.cur c i) hread)).trans (act_update _ _),
    fun c' i' hp => ?_, fun c' i' hp => ?_⟩
  · obtain ⟨rfl, rfl⟩ := hp
    exact (storeRead_writeCell _ _ _ _ _ _).trans (if_pos ⟨rfl, rfl⟩)
  · exact (storeRead_writeCell _ _ _ _ _ _).trans (if_neg hp)

theorem reduces_line {c : Cpnt} (h : ∀ i < s.width, storeRead (s.cur.get c) i = some (x c i)) :
    Reduces s x (fun c' i => ∃ j ∈ List.range s.width, c' = c ∧ i = j) (reduceLine c) := fun b =>
  reduces_forAll (fun i hi => reduces_cell (h i (List.mem_range.1 hi))) b

/-- The copy of a written line writes the elements below W of every component, and no other. -/
theorem reduceLines_copies (h : ∀ c i, i < s.width → storeRead (s.cur.get c) i = some (x c i)) :
    ∃ b, forAll reduceLine Idx3.all s = .ok () (s.withPrev b) ∧ ∀ c i, storeRead (b.get c) i =
      if i < s.width then some (BitVec.ofInt 16 (reduceSample s c (x c i).toNat)) else storeRead (s.prev.get c) i := by
  obtain ⟨b, hcopy, copied, kept⟩ := reduces_forAll (l := Idx3.all) (fun c _ => reduces_line (h c)) s.prev
  refine ⟨b, hcopy, fun c i => ?_⟩
  split
  · exact copied c i ⟨c, c.mem_all, i, List.mem_range.2 ‹_›, rfl, rfl⟩
  · refine kept c i ?_
    rintro ⟨c', -, j, hj, -, rfl⟩
    exact absurd (List.mem_range.1 hj) ‹_›

/-- `LINE_END` with its line coded and a line number that fits closes the line on the copy (45_sequencing.md R418). -/
theorem exec_lineEnd_closes {b : LineBuf} (hrun : s.running) (active : s.st.sliceActive = true)
    (opened : s.mode.lineOpen = true) (rated : s.mode.groupPending = false) (coded : s.width ≤ s.hPos)
    (fits : s.vPos + 1 < 2 ^ 16) (hcopy : forAll reduceLine Idx3.all s = .ok () (s.withPrev b)) :
    exec .lineEnd s = .next ((s.withPrev b).lineBp.closeLine (s.pos.vPos + 1)) := by
  have hfit : fitU 16 0x0301 (s.vPos + 1 : Nat) (s.withPrev b).lineBp = .ok (s.pos.vPos + 1) _ :=
    (fitU_room 0x0301 fits _).trans (by rw [State.vPos, ofNat_toNat_succ])
  refine (unlessFaulted_needsSlice hrun (.inl active)).trans
    ((complete_demand_met (by simp [active, opened, rated, coded])).trans ((complete_bind_ok hcopy).trans ?_))
  exact (complete_bind_ok (act_update _ _)).trans ((complete_bind_ok (act_look _ _)).trans
    ((complete_bind_ok hfit).trans (complete_ok (act_update _ _))))

end LineEnd

/-- Settles O19: the line is copied element by element, and closed with the next line's history. -/
theorem lineEndClosesLine : Obligations.LineEndClosesLine := by
  intro s x hrun active opened rated coded inside written
  obtain ⟨b, hcopy, hprev⟩ := reduceLines_copies written
  have hheight : s.height < 2 ^ 16 := cfg_lt s .sliceHeight
  have fits : s.vPos + 1 < 2 ^ 16 := by omega
  have hnext : (s.pos.vPos + 1).toNat = s.vPos + 1 := by
    rw [← ofNat_toNat_succ, BitVec.toNat_ofNat]
    exact Nat.mod_eq_of_lt fits
  refine ⟨_, exec_lineEnd_closes hrun active opened rated coded fits hcopy, hprev,
    fun g hg => ⟨copyPrefix_getD _ _ _ _ hg, copyPrefix_getD _ _ _ _ hg⟩,
    fun g hg => ⟨copyPrefix_getD_of_le _ _ _ _ hg, copyPrefix_getD_of_le _ _ _ _ hg⟩, ?_⟩
  rw [← hnext]
  rfl

/-! ## Samples -/

/-- Settles O22: behind its two demands `ORIG_WR` writes one element. -/
theorem origWrRule : Obligations.OrigWrRule := by
  intro s c i hrun henc
  dsimp only
  have hstart : exec (.origWr c i) s = _ := unlessFaulted_encoderOnly hrun henc
  rw [hstart]
  refine ⟨fun hi => complete_demand_unmet (decide_eq_false (Nat.not_lt.2 hi)), fun hi hrange => ?_,
    fun hi low high => ?_⟩
  · have hno : ¬ (0 ≤ s.opA ∧ s.opA ≤ s.maxval c) := by
      rw [State.opA]
      omega
    exact (complete_demand_met (decide_eq_true hi)).trans (complete_demand_unmet (decide_eq_false hno))
  · refine ⟨writeCell s.orig c i (BitVec.ofInt 16 s.opA), ?_, fun c' i' => storeRead_writeCell _ _ _ _ _ _⟩
    exact (complete_demand_met (decide_eq_true hi)).trans
      ((complete_demand_met (decide_eq_true ⟨low, high⟩)).trans (complete_ok (act_update _ s)))

/-- Settles O23: behind its demand `PIX_RD` reads one element. -/
theorem pixRdRule : Obligations.PixRdRule := by
  intro s c i hrun hslice
  have hstart : exec (.pixRd c i) s = _ := unlessFaulted_needsSlice hrun hslice
  rw [hstart]
  refine ⟨fun hi => complete_demand_unmet (decide_eq_false (Nat.not_lt.2 hi)), fun hi v hv => ?_, fun hi hnone => ?_⟩
  · exact (complete_demand_met (decide_eq_true hi)).trans (complete_writeRes (act_sense_ok (readCell_some hv)))
  · exact (complete_demand_met (decide_eq_true hi)).trans
      (complete_bind_raise (act_sense_error (readCell_none hnone)))

end Sys2Proof.Machine

namespace Sys2Proof.Machine

/-! ## Fault entry and the halted block -/

/-- Settles O6: fault entry is the state written out field by field, and it always ends halted. -/
theorem faultEntryRecordsFirst : Obligations.FaultEntryRecordsFirst := by
  intro s k info
  have hentry := enterFault_raising s k info
  exact ⟨hentry, hentry ▸ enterFault_faulted s (raising k info)⟩

/-- The fault flag, the code, the information and the faulting command are the same in two sets of status registers. -/
structure FaultFrame (a b : Status) : Prop where
  faulted : b.faulted = a.faulted
  code : b.faultCode = a.faultCode
  info : b.faultInfo = a.faultInfo
  cmd : b.faultCmd = a.faultCmd

theorem faultFrame_of_eq {a b : Status} (h : b = a) : FaultFrame a b := by
  subst h
  exact ⟨rfl, rfl, rfl, rfl⟩

/-- A second fault leaves the record of the first (60_exceptions.md R443). -/
theorem FaultFrame.enterFault {s u : State} (h : FaultFrame s.st u.st) (hs : s.st.faulted = true) (r : Raise) :
    FaultFrame s.st (u.enterFault r).st := by
  rw [enterFault_st_of_faulted (h.faulted.trans hs)]
  exact ⟨h.faulted, h.code, h.info, h.cmd⟩

theorem closeLine_faultFrame (s : State) (v : BitVec 16) : FaultFrame s.st (s.closeLine v).st := by
  rw [closeLine_st]
  split <;> exact ⟨rfl, rfl, rfl, rfl⟩

/-- In the halted block no effect but those of `SLICE_START` writes the fault record. -/
theorem Effect.faultFrame {i : Instr} {s t : State} (h : Effect i s t) (hs : s.st.faulted = true)
    (hi : ∀ d, i ≠ .sliceStart d) : FaultFrame s.st t.st := by
  cases h with
  | hold | result | cfgByte | cfgThresh | checkPassed | origWr => exact ⟨rfl, rfl, rfl, rfl⟩
  | startRefused d | sliceStart d => exact absurd rfl (hi d)
  | lineStart => exact faultFrame_of_eq (lineIch_openLine_st s)
  | lineEnd => exact closeLine_faultFrame _ _
  | fault _ _ r | checkFailed r | lineEndCut r | lineEndUnfit r =>
    refine FaultFrame.enterFault ?_ hs r
    exact ⟨rfl, rfl, rfl, rfl⟩
  | groupCut r _ writes | groupUnfit _ r _ writes | rateCut r writes =>
    refine FaultFrame.enterFault ?_ hs r
    exact faultFrame_of_eq writes.controlFrame.st
  | group _ _ _ writes | rate writes => exact faultFrame_of_eq writes.controlFrame.st

/-- The halted block discards a command that is none of the five: it holds its state (60_exceptions.md R444). -/
theorem exec_discarded {i : Instr} {s : State} (hs : s.st.faulted = true) (hi : runsHalted i = false) :
    exec i s = .next s := by
  cases i with
  | nop | cfgWr | cfgCheck | sliceStart | regRd => cases hi
  | _ => exact unlessFaulted_faulted hs

/-- Settles O7: the commands outside the five are discarded, and no effect of a command but `SLICE_START` writes the fault
record. -/
theorem haltedBlockKeepsFault : Obligations.HaltedBlockKeepsFault := by
  intro i s t hs ht
  refine ⟨fun hi => (Host.Outcome.next.inj ((exec_discarded hs hi).symm.trans ht)).symm, fun hi => ?_⟩
  obtain ⟨faulted, code, info, cmd⟩ := (exec_effect i ht).faultFrame hs hi
  exact ⟨faulted.trans hs, code, info, cmd⟩

end Sys2Proof.Machine

namespace Sys2Proof.Machine

/-! ## Which states accept a command -/

/-! ### The checks before a command, unmet -/

section Refused

variable {s : State} {f : Unit → Act Unit}

/-- A quantizer command without a checked configuration (30_encoding.md R134). -/
theorem unlessFaulted_needsConfig_unmet (hrun : s.running) (invalid : s.st.cfgValid = false) :
    unlessFaulted (needsConfig >>= f) s = .next (s.afterFault .notActive 0) :=
  (unlessFaulted_running hrun).trans (complete_demand_unmet invalid)

/-- A command that needs a slice, where none is active or done (30_encoding.md R134). -/
theorem unlessFaulted_needsSlice_unmet (hrun : s.running) (noSlice : ¬ s.inSlice) :
    unlessFaulted (needsSlice >>= f) s = .next (s.afterFault .notActive 0) :=
  (unlessFaulted_running hrun).trans (complete_demand_unmet (by simpa using noSlice))

/-- An encoder-only command outside an encoder slice records its own word (30_encoding.md R132 check 6). -/
theorem unlessFaulted_encoderOnly_unmet (hrun : s.running) (elsewhere : ¬ s.encoding) :
    unlessFaulted (encoderOnly >>= f) s = .next (s.afterFault .illegalCmd s.port.cmd.toInt) :=
  (unlessFaulted_running hrun).trans (complete_demand_unmet (by simpa using elsewhere))

/-- A decoder-only command outside a decoder slice records its own word (30_encoding.md R132 check 6). -/
theorem unlessFaulted_decoderOnly_unmet (hrun : s.running) (elsewhere : ¬ s.decoding) :
    unlessFaulted (decoderOnly >>= f) s = .next (s.afterFault .illegalCmd s.port.cmd.toInt) :=
  (unlessFaulted_running hrun).trans (complete_demand_unmet (by simpa using elsewhere))

end Refused

/-! ### The rows of the table -/

section Rows

variable {i : Instr} {s : State}

/-- An active slice locks the configuration (10_state.md R35). -/
theorem exec_config_locked (row : rowOf i = .config) (active : s.st.sliceActive = true) :
    exec i s = .next (s.afterFault .cfgLocked (lockedIndex i)) := by
  cases i with
  | cfgWr idx => exact exec_cfgWr_locked active idx
  | cfgCheck => exact complete_demand_unmet (s := s) (by simp [active])
  | _ => cases row

/-- No slice starts inside another (45_sequencing.md R415). -/
theorem exec_start_locked (row : rowOf i = .start) (active : s.st.sliceActive = true) :
    exec i s = .next (s.afterFault .cfgLocked 0) := by
  cases i with
  | sliceStart => exact complete_demand_unmet (s := s) (by simp [active])
  | _ => cases row

/-- On a block that is not halted, leaving the fault state before a fault leaves no trace (60_exceptions.md R445). -/
theorem leaveFault_afterFault (hrun : s.running) (k : FaultKind) (info : Int) :
    s.leaveFault.afterFault k info = s.afterFault k info := by
  simp [State.leaveFault, State.withSt, State.afterFault, hrun]

/-- A slice starts on a checked configuration only (45_sequencing.md R415). -/
theorem exec_start_unchecked (row : rowOf i = .start) (hrun : s.running) (free : s.st.sliceActive = false)
    (invalid : s.st.cfgValid = false) : exec i s = .next (s.afterFault .sequence 0) := by
  cases i with
  | sliceStart d => rw [exec_sliceStart_unchecked free invalid, leaveFault_afterFault hrun]
  | _ => cases row

theorem exec_quantizer_unchecked (row : rowOf i = .quantizer) (hrun : s.running) (invalid : s.st.cfgValid = false) :
    exec i s = .next (s.afterFault .notActive 0) := by
  cases i with
  | mapq | quant | dequant | rsize | recon => exact unlessFaulted_needsConfig_unmet hrun invalid
  | _ => cases row

theorem exec_reader_noSlice (row : rowOf i = .reader) (hrun : s.running) (noSlice : ¬ s.inSlice) :
    exec i s = .next (s.afterFault .notActive 0) := by
  cases i with
  | pixRd | pred | midpoint | ichLookup | psizeAdj => exact unlessFaulted_needsSlice_unmet hrun noSlice
  | _ => cases row

theorem exec_encoder_elsewhere (row : rowOf i = .encoder) (hrun : s.running) (elsewhere : ¬ s.encoding) :
    exec i s = .next (s.afterFault .illegalCmd s.port.cmd.toInt) := by
  cases i with
  | origWr | ichTest | ichPick | flatDetect | encGroup => exact unlessFaulted_encoderOnly_unmet hrun elsewhere
  | _ => cases row

theorem exec_decoder_elsewhere (row : rowOf i = .decoder) (hrun : s.running) (elsewhere : ¬ s.decoding) :
    exec i s = .next (s.afterFault .illegalCmd s.port.cmd.toInt) := by
  cases i with
  | decGroup => exact unlessFaulted_decoderOnly_unmet hrun elsewhere
  | _ => cases row

theorem exec_sequencing_noSlice (row : rowOf i = .sequencing) (hrun : s.running) (noSlice : ¬ s.inSlice) :
    exec i s = .next (s.afterFault .notActive 0) := by
  cases i with
  | lineStart | lineEnd | rcUpdate => exact unlessFaulted_needsSlice_unmet hrun noSlice
  | _ => cases row

/-- After its last line a slice takes no line and no update. `RC_UPDATE` does not read `sliceActive`: it is refused since
no group is pending (43_rate_control.md R330). -/
theorem exec_sequencing_done (row : rowOf i = .sequencing) (hrun : s.running) (free : s.st.sliceActive = false)
    (done : s.st.sliceDone = true) (settled : s.mode.groupPending = false) :
    exec i s = .next (s.afterFault .sequence 0) := by
  cases i with
  | lineStart | lineEnd =>
    exact (unlessFaulted_needsSlice hrun (.inr done)).trans (complete_demand_unmet (by simp [free]))
  | rcUpdate => exact (unlessFaulted_needsSlice hrun (.inr done)).trans (complete_demand_unmet settled)
  | _ => cases row

end Rows

/-- Settles O8, row by row of the table. -/
theorem acceptanceTable : Obligations.AcceptanceTable := by
  intro i s k info hrun hpending h
  cases row : rowOf i with
  | anyState => simp [tableFault, row] at h
  | config =>
    obtain ⟨active, rfl, rfl⟩ : s.st.sliceActive = true ∧ .cfgLocked = k ∧ (lockedIndex i : Int) = info := by
      simpa [tableFault, row] using h
    exact exec_config_locked row active
  | start =>
    cases active : s.st.sliceActive with
    | true =>
      obtain ⟨rfl, rfl⟩ : .cfgLocked = k ∧ 0 = info := by simpa [tableFault, row, active] using h
      exact exec_start_locked row active
    | false =>
      obtain ⟨invalid, rfl, rfl⟩ : s.st.cfgValid = false ∧ .sequence = k ∧ 0 = info := by
        simpa [tableFault, row, active] using h
      exact exec_start_unchecked row hrun active invalid
  | quantizer =>
    obtain ⟨invalid, rfl, rfl⟩ : s.st.cfgValid = false ∧ .notActive = k ∧ 0 = info := by
      simpa [tableFault, row] using h
    exact exec_quantizer_unchecked row hrun invalid
  | reader =>
    obtain ⟨noSlice, rfl, rfl⟩ : ¬ s.inSlice ∧ .notActive = k ∧ 0 = info := by
      simpa [tableFault, row] using h
    exact exec_reader_noSlice row hrun noSlice
  | encoder =>
    obtain ⟨elsewhere, rfl, rfl⟩ : ¬ s.encoding ∧ .illegalCmd = k ∧ s.port.cmd.toInt = info := by
      simpa [tableFault, row] using h
    exact exec_encoder_elsewhere row hrun elsewhere
  | decoder =>
    obtain ⟨elsewhere, rfl, rfl⟩ : ¬ s.decoding ∧ .illegalCmd = k ∧ s.port.cmd.toInt = info := by
      simpa [tableFault, row] using h
    exact exec_decoder_elsewhere row hrun elsewhere
  | sequencing =>
    have free : s.st.sliceActive = false := Bool.eq_false_iff.2 fun active => by simp [tableFault, row, active] at h
    have settled : s.mode.groupPending = false := Bool.eq_false_iff.2 fun hp => by simp [hpending hp] at free
    cases done : s.st.sliceDone with
    | true =>
      obtain ⟨rfl, rfl⟩ : .sequence = k ∧ 0 = info := by simpa [tableFault, row, free, done] using h
      exact exec_sequencing_done row hrun free done settled
    | false =>
      obtain ⟨rfl, rfl⟩ : .notActive = k ∧ 0 = info := by simpa [tableFault, row, free, done] using h
      exact exec_sequencing_noSlice row hrun (by simp [free, done])

/-! ## Reset -/

theorem reset_not_inSlice : ¬ State.reset.inSlice := by simp [State.reset]

theorem lineBuf_empty_read (c : Cpnt) (i : Nat) : storeRead (LineBuf.empty.get c) i = none := by simp [LineBuf.empty]

/-- No cache entry is valid at reset (log entry 1). -/
theorem reset_ichEntry_valid (k : Nat) : (ichEntry State.reset k).valid = false := by
  rw [ichEntry, List.getD_eq_getElem?_getD, show State.reset.ich = List.replicate 32 IchEntry.empty from rfl,
    List.getElem?_replicate]
  split <;> rfl

theorem reset_storageInv : StorageInv State.reset where
  image := reset_mem_wf
  imageBound := fun p hp => absurd hp List.not_mem_nil
  reserved := fun _ _ => BitVec.getLsbD_zero
  prev := lineBuf_empty_wf
  cur := lineBuf_empty_wf
  orig := lineBuf_empty_wf
  ich := rfl
  window := fun k => by
    rw [show State.reset.bp.window.get k = BpCost.zero from Tri.get_fill _ k]
    rfl

/-- Reset leaves no configuration checked, no slice done and no fault recorded (70_reset_and_hazards.md R480). -/
theorem reset_idleAgreement : IdleAgreement State.reset where
  validLegal := nofun
  doneValid := nofun
  doneState := nofun
  doneAtEnd := nofun
  faultRecorded := rfl
  checkedGroups := nofun

theorem reset_ichInv : IchInv State.reset where
  size := rfl
  run := fun _ k _ _ hvalid => by simp [reset_ichEntry_valid k] at hvalid
  distinct := fun _ k _ _ hvalid => by simp [reset_ichEntry_valid k] at hvalid

/-- Settles O54: without a slice the ranges ask nothing, and the other invariants hold of the values at reset. -/
theorem resetMeetsInvariants : Obligations.ResetMeetsInvariants :=
  ⟨reset_storageInv, reset_idleAgreement.control rfl rfl rfl, nofun,
    fun hslice => absurd hslice reset_not_inSlice, reset_ichInv, nofun, rfl, rfl, rfl,
    memRead_nil, rfl, rfl, fun c i => ⟨lineBuf_empty_read c i, lineBuf_empty_read c i, lineBuf_empty_read c i⟩⟩

end Sys2Proof.Machine
